-- ==== Sys2Proof/Word.lean ====
section
/-! DEFINITION. The word of the machine: every general register, address and data cell is 32 bits wide (spec R6). -/

namespace Sys2Proof

/-- A 32 bit value: a register, an address or a data cell (R6 `XLEN`, `ADDR_WIDTH`; R107). Bit 0 is the least significant
(R8); addresses and bounds are unsigned and wrap modulo 2^32 (R10). -/
abbrev Word := BitVec 32

end Sys2Proof
end

