-- ==== Sys2Proof/Syntax.lean ====
section
/-! DEFINITION. The instructions as terms: one constructor per row of spec/opcode_table.json (R146). The spec gives no bit
pattern for any of them, and a model built from it "takes instructions as terms" (R147; log 1). -/

namespace Sys2Proof

/-- The address operands of `ld` and `st`. How an effective address is formed is not in the source (R162), so there are two
forms (log 10). DESIGN CHOICE. -/
inductive AddrOperand
  /-- The effective address is already computed: the spec's own program notation `[ea]` (95_test_vectors.md Part C). -/
  | given (ea : Word)
  /-- Register fields, each read through the source set selector, together with the rest of the operand (whatever else the
  instruction word holds); an uninterpreted function makes the address of them (R162). -/
  | formed (fields : List (BitVec 5)) (rest : Word)
  deriving DecidableEq, Repr

/-- The six instructions the spec names (R146). A register field is a 5 bit value; in 16 bit mode only 0 to 7 can be
written (R143, R42). -/
inductive Instr
  /-- `ld d, <address operands>` (R160): load a 32 bit word into target field `d`. -/
  | ld (d : BitVec 5) (op : AddrOperand)
  /-- `st src, <address operands>` (R161): store the register named by source field `src`. -/
  | st (src : BitVec 5) (op : AddrOperand)
  /-- `scall` (R170): system call. -/
  | scall
  /-- `retu` (R172): return to user mode. -/
  | retu
  /-- `chrs (rd, wr)` (R174): new RSRD and RSWR, false for SET 1 and true for SET 2 (D13: the pair is the term's). -/
  | chrs (rd wr : Bool)
  /-- `cop n, w` (R180): send the coprocessor instruction word `w` to coprocessor `n`. The word's size is not in the source;
  32 bits hold any word an instruction can carry (log 28). -/
  | cop (n : BitVec 2) (w : Word)
  deriving DecidableEq, Repr

/-- What one address of instruction memory holds. -/
inductive CodeWord
  /-- Bits with no known meaning: the spec has no encoding (R147, 93 U14). -/
  | raw (w : Word)
  /-- The instruction word of `i` in the word length `il` (true: 32 bits, R140). The same bits read in the other word length
  are another, unknown, instruction. -/
  | term (il : Bool) (i : Instr)
  deriving DecidableEq, Repr

/-- The register fields an address operand names. -/
def AddrOperand.fields : AddrOperand → List (BitVec 5)
  | .given _ => []
  | .formed fs _ => fs

/-- Every register field an instruction names. -/
def Instr.fields : Instr → List (BitVec 5)
  | .ld d op => d :: op.fields
  | .st src op => src :: op.fields
  | .scall => []
  | .retu => []
  | .chrs _ _ => []
  | .cop _ _ => []

end Sys2Proof
end

