-- ==== Sys2Proof/WellFormed.lean ====
section
/-! DEFINITION. Which instruction terms can be written in which word length (R143, R147). -/

namespace Sys2Proof

/-- A register field carries 5 bits in 32 bit mode and 3 bits in 16 bit mode (R143). -/
def fieldWritable (il : Bool) (f : BitVec 5) : Bool :=
  il || decide (f.toNat < 8)

/-- An instruction term can be written in word length `il` when each of its register fields can: "an instruction form that would
need a register outside index 24 to 31 ... cannot be written" in 16 bit mode (R147). DESIGN CHOICE (log 34): every one of the
six instructions exists in both word lengths; whether every 32 bit instruction has a 16 bit counterpart is not in the source
(R148, N3). -/
def Instr.wellFormed (il : Bool) (i : Instr) : Bool :=
  i.fields.all (fieldWritable il)

end Sys2Proof
end

