-- ==== Sys2Proof/Decode.lean ====
section
/-! DEFINITION. The decoder, total on any word and rejecting by name, and the encoder. The spec has no encoding: "A model built
from this spec decodes nothing from bits; it takes instructions as terms. Any attempt to give meaning to a bit pattern is
`refuse`" (R147, 93 U14). So bits are rejected, and instruction memory holds terms, which decode to themselves in the word
length they were written for (log 1). -/

namespace Sys2Proof

/-- Why an instruction word is rejected. -/
inductive DecodeError
  /-- The word is bits, and the spec gives no bit pattern of any instruction (R142, R147). -/
  | noEncodingInSource
  /-- The word was written in the other word length; its bits have no known meaning in this one (R140). -/
  | otherWordLength
  /-- The term has a register field that no 16 bit word can carry (R143, R147). -/
  | notWritable
  deriving DecidableEq, Repr

/-- The meaning of the bits `w` in word length `il`: none is given for any word (R147). -/
def decodeWord (_il : Bool) (_w : Word) : Except DecodeError Instr :=
  .error .noEncodingInSource

/-- The bits of an instruction in word length `il`: none are given for any instruction (R142). -/
def encodeWord (_il : Bool) (_i : Instr) : Except DecodeError Word :=
  .error .noEncodingInSource

/-- Decoding what instruction memory holds at an address, in the word length in force (R140). -/
def decodeCode (il : Bool) : CodeWord → Except DecodeError Instr
  | .raw w => decodeWord il w
  | .term il' i =>
    if il' = il then (if i.wellFormed il then .ok i else .error .notWritable) else .error .otherWordLength

/-- What instruction memory holds for the instruction `i` in word length `il`: its bits if it has any, else the term. -/
def encode (il : Bool) (i : Instr) : CodeWord :=
  match encodeWord il i with
  | .ok w => .raw w
  | .error _ => .term il i

/-- The host's question about a row of the opcode table: a word of at most 16 bits is a 16 bit word, any other a 32 bit word. No
row of the table has bits, so the answer is none (R147). -/
def decodeTableWord (nbits w : Nat) : Option Instr :=
  (decodeWord (decide (16 < nbits)) (BitVec.ofNat 32 w)).toOption

end Sys2Proof
end

