-- ==== Sys2Proof/Config.lean ====
section
/-! DEFINITION. What the spec leaves to the implementation: the OPEN parameters of R7 (a record that the state carries as an
input of the step, R89), the uninterpreted functions, and the free values (`draw` of R11). The opaque constants have no body:
no proof can see their values (logs 5, 8, 9, 10, 21, 23, 27). -/

namespace Sys2Proof

/-- A condition register: three flags and no bit order (R44, D24). -/
structure CondReg where
  z : Bool
  n : Bool
  c : Bool
  deriving DecidableEq, Repr, Inhabited

/-- The exception causes the spec names (R12, R241). -/
inductive Cause
  /-- `ld` or `st` in user mode to an address that is not allowed. -/
  | dataProtection
  /-- Instruction fetch in user mode from an address that is not allowed. -/
  | instrProtection
  /-- A user mode attempt at a privileged operation. -/
  | privilege
  deriving DecidableEq, Repr, Inhabited

/-- The four flags of a PSR value whose UM bit is 0: the parameters SCALL_PSR and EXC_PSR (R7). -/
structure SuperFlags where
  ie : Bool
  il : Bool
  rswr : Bool
  rsrd : Bool
  deriving DecidableEq, Repr, Inhabited

/-- The OPEN parameters of R7 that are data. Every statement holds for every value. -/
structure Params where
  /-- `ISTEP(1)`: the increment between 32 bit instruction words (D4; suggested 4). -/
  istep32 : Word
  /-- `ISTEP(0)`: the increment between 16 bit instruction words (D4; suggested 2). -/
  istep16 : Word
  /-- `SCALL_PSR`, whose UM is 0 (D8; suggested 0x0E). -/
  scallPsr : SuperFlags
  /-- `EXC_PSR`, whose UM is 0 (D23; suggested 0x0E). -/
  excPsr : SuperFlags
  /-- `EXC_CODE` of each cause; distinct causes may share a code (R242). -/
  excCodeData : BitVec 8
  excCodeInstr : BitVec 8
  excCodePrivilege : BitVec 8
  /-- `UNIFIED_MEMORY` (D16). -/
  unifiedMemory : Bool
  /-- `INT_MASK_RESET` is 0xFFF when true and 0x000 when false, the two candidates of conflict C2 (D6). -/
  intMaskResetOnes : Bool
  deriving DecidableEq, Repr, Inhabited

/-- The spec's suggested values (93 Part 2, G1, G3, G4), with 0 and false where it suggests none. For tests only: no meaning and
no reset state uses them. -/
def Params.suggested : Params :=
  { istep32 := 4#32, istep16 := 2#32
    scallPsr := { ie := false, il := true, rswr := true, rsrd := true }
    excPsr := { ie := false, il := true, rswr := true, rsrd := true }
    excCodeData := 0#8, excCodeInstr := 0#8, excCodePrivilege := 0#8
    unifiedMemory := false, intMaskResetOnes := false }

/-- The parameters of this machine: unconstrained (R7; log 5). -/
opaque Config.params : Params

/-- `draw(32 bits)`: the value of the n-th free value taken (R11; log 8). -/
opaque Config.draw : Nat → Word

/-- `draw` of an instruction word: the instruction the n-th free word is, if it is one (R125, 93 U19; log 23). -/
opaque Config.drawInstr : Nat → Option Instr

/-- The interrupt request lines at an instruction boundary: any subset of the 12 sources (R221, D21; log 21). -/
opaque Config.requestLines : Nat → BitVec 12

/-- Whether a candidate is taken at this boundary or delayed (R225, D21; log 21). -/
opaque Config.takeInterrupt : Nat → Bool

/-- Which of the best candidates is taken (R234, D28; log 21). -/
opaque Config.pickInterrupt : Nat → Nat

/-- What INT_PEND reads as at an instruction boundary: `draw(12 bits)` (R230; log 9). -/
opaque Config.pendingBits : Nat → BitVec 12

/-- The current value of timer 0 at an instruction boundary: `draw(32 bits)` (R75, R250; log 9). -/
opaque Config.timer0 : Nat → Word

/-- The current value of timer 1 at an instruction boundary: `draw(32 bits)` (R77, R250; log 9). -/
opaque Config.timer1 : Nat → Word

/-- `EA`: the effective address from the values of the address registers and the rest of the operand (R162; log 10). -/
opaque Config.formEa : List Word → Word → Word

/-- `FLAGS_CMP`: the flags of a compare instruction, from its modifiers and its two values (R190, D24). -/
opaque Config.flagsCmp : Nat → Word → Word → CondReg

/-- `OP`: the result of the arithmetic instruction numbered by the first argument (R191). -/
opaque Config.arithOp : Nat → Word → Word → Word

/-- `FLAGS_OP`: the flags of that arithmetic instruction, from its values and its result (R191, D24). -/
opaque Config.flagsOp : Nat → Word → Word → Word → CondReg

/-- `HOLDS`: whether a condition holds of the three flags of one condition register and of nothing else (R192, D24). -/
opaque Config.holds : Nat → CondReg → Bool

end Sys2Proof
end

