-- ==== Sys2Proof/Machine/Ccb.lean ====
section
/-! DEFINITION. The core control block: its 39 registers, each with the width the spec gives it (R50 to R82), their offsets,
access classes, reset values, and reading and writing one as a 32 bit value (R51). -/

namespace Sys2Proof.Machine

/-- The internal registers of the CCB, in offset order (R86). -/
structure Ccb where
  ccbBase : Word
  ccbEnd : Word
  copIntVec : Vector Word 4
  extIntVec : Vector Word 8
  intModeIl : BitVec 12
  intModeUm : BitVec 12
  intMask : BitVec 12
  intServ : BitVec 12
  intPend : BitVec 12
  extIntPri : BitVec 32
  copIntPri : BitVec 16
  exceptionCs : BitVec 8
  exceptionPc : Word
  exceptionPsr : BitVec 8
  dmemBoundLo : Word
  dmemBoundHi : Word
  imemBoundLo : Word
  imemBoundHi : Word
  /-- Bits 1:0 only: bits 31:2 are reserved, read as zeros and ignore writes (R70). -/
  memPconf : BitVec 2
  systemAddr : Word
  excepAddr : Word
  waitStates : BitVec 12
  cregIIndx : BitVec 20
  tmr0Cnt : Word
  tmr0MaxCnt : Word
  tmr1Cnt : Word
  tmr1MaxCnt : Word
  tmrConf : BitVec 32
  copIfMode : BitVec 8
  deriving DecidableEq, Repr

/-- The names of the internal CCB registers (R86). -/
inductive CcbReg
  | ccbBase | ccbEnd
  | copIntVec (n : Fin 4)
  | extIntVec (n : Fin 8)
  | intModeIl | intModeUm | intMask | intServ | intPend
  | extIntPri | copIntPri
  | exceptionCs | exceptionPc | exceptionPsr
  | dmemBoundLo | dmemBoundHi | imemBoundLo | imemBoundHi | memPconf
  | systemAddr | excepAddr | waitStates | cregIIndx
  | tmr0Cnt | tmr0MaxCnt | tmr1Cnt | tmr1MaxCnt | tmrConf | copIfMode
  deriving DecidableEq, Repr

/-- The access classes of R109. -/
inductive CcbAccess
  /-- Readable and writable. -/
  | rw
  /-- "Read only" in the source's words. -/
  | readOnly
  /-- Status registers whose writability the source does not give. -/
  | status
  deriving DecidableEq, Repr

/-- The offset of a register in the block (R52 to R80, table of R86). -/
def CcbReg.offset : CcbReg → Nat
  | .ccbBase => 0x00
  | .ccbEnd => 0x01
  | .copIntVec n => 0x02 + n.val
  | .extIntVec n => 0x06 + n.val
  | .intModeIl => 0x0e
  | .intModeUm => 0x0f
  | .intMask => 0x10
  | .intServ => 0x11
  | .intPend => 0x12
  | .extIntPri => 0x13
  | .copIntPri => 0x14
  | .exceptionCs => 0x15
  | .exceptionPc => 0x16
  | .exceptionPsr => 0x17
  | .dmemBoundLo => 0x18
  | .dmemBoundHi => 0x19
  | .imemBoundLo => 0x1a
  | .imemBoundHi => 0x1b
  | .memPconf => 0x1c
  | .systemAddr => 0x1d
  | .excepAddr => 0x1e
  | .waitStates => 0x1f
  | .cregIIndx => 0x20
  | .tmr0Cnt => 0x21
  | .tmr0MaxCnt => 0x22
  | .tmr1Cnt => 0x23
  | .tmr1MaxCnt => 0x24
  | .tmrConf => 0x25
  | .copIfMode => 0x26

/-- Every register, in offset order. -/
def CcbReg.all : List CcbReg :=
  [.ccbBase, .ccbEnd,
   .copIntVec 0, .copIntVec 1, .copIntVec 2, .copIntVec 3,
   .extIntVec 0, .extIntVec 1, .extIntVec 2, .extIntVec 3,
   .extIntVec 4, .extIntVec 5, .extIntVec 6, .extIntVec 7,
   .intModeIl, .intModeUm, .intMask, .intServ, .intPend, .extIntPri, .copIntPri] ++
  [.exceptionCs, .exceptionPc, .exceptionPsr, .dmemBoundLo, .dmemBoundHi, .imemBoundLo, .imemBoundHi, .memPconf,
   .systemAddr, .excepAddr, .waitStates, .cregIIndx,
   .tmr0Cnt, .tmr0MaxCnt, .tmr1Cnt, .tmr1MaxCnt, .tmrConf, .copIfMode]

/-- The register at an offset: 00h to 26h have one, 27h to ffh are reserved (R50, R81). -/
def CcbReg.ofOffset (k : BitVec 8) : Option CcbReg :=
  CcbReg.all[k.toNat]?

/-- The number of bits of the register that have storage: its width (R86), but for MEM_PCONF, 32 bits wide with bits 31:2
reserved (R70). -/
def CcbReg.bits : CcbReg → Nat
  | .intModeIl | .intModeUm | .intMask | .intServ | .intPend | .waitStates => 12
  | .copIntPri => 16
  | .exceptionCs | .exceptionPsr | .copIfMode => 8
  | .memPconf => 2
  | .cregIIndx => 20
  | .ccbBase | .ccbEnd | .copIntVec _ | .extIntVec _ | .extIntPri | .exceptionPc | .dmemBoundLo | .dmemBoundHi
  | .imemBoundLo | .imemBoundHi | .systemAddr | .excepAddr | .tmr0Cnt | .tmr0MaxCnt | .tmr1Cnt | .tmr1MaxCnt
  | .tmrConf => 32

/-- The access class of a register (R109). -/
def CcbReg.access : CcbReg → CcbAccess
  | .intPend | .exceptionCs | .exceptionPc | .exceptionPsr => .readOnly
  | .intServ | .tmr0Cnt | .tmr1Cnt => .status
  | .ccbBase | .ccbEnd | .copIntVec _ | .extIntVec _ | .intModeIl | .intModeUm | .intMask | .extIntPri | .copIntPri
  | .dmemBoundLo | .dmemBoundHi | .imemBoundLo | .imemBoundHi | .memPconf | .systemAddr | .excepAddr | .waitStates
  | .cregIIndx | .tmr0MaxCnt | .tmr1MaxCnt | .tmrConf | .copIfMode => .rw

/-- Reading a register: its bits, zero extended to 32 (R51). -/
def Ccb.get (c : Ccb) : CcbReg → Word
  | .ccbBase => c.ccbBase
  | .ccbEnd => c.ccbEnd
  | .copIntVec n => c.copIntVec[n]
  | .extIntVec n => c.extIntVec[n]
  | .intModeIl => c.intModeIl.setWidth 32
  | .intModeUm => c.intModeUm.setWidth 32
  | .intMask => c.intMask.setWidth 32
  | .intServ => c.intServ.setWidth 32
  | .intPend => c.intPend.setWidth 32
  | .extIntPri => c.extIntPri
  | .copIntPri => c.copIntPri.setWidth 32
  | .exceptionCs => c.exceptionCs.setWidth 32
  | .exceptionPc => c.exceptionPc
  | .exceptionPsr => c.exceptionPsr.setWidth 32
  | .dmemBoundLo => c.dmemBoundLo
  | .dmemBoundHi => c.dmemBoundHi
  | .imemBoundLo => c.imemBoundLo
  | .imemBoundHi => c.imemBoundHi
  | .memPconf => c.memPconf.setWidth 32
  | .systemAddr => c.systemAddr
  | .excepAddr => c.excepAddr
  | .waitStates => c.waitStates.setWidth 32
  | .cregIIndx => c.cregIIndx.setWidth 32
  | .tmr0Cnt => c.tmr0Cnt
  | .tmr0MaxCnt => c.tmr0MaxCnt
  | .tmr1Cnt => c.tmr1Cnt
  | .tmr1MaxCnt => c.tmr1MaxCnt
  | .tmrConf => c.tmrConf
  | .copIfMode => c.copIfMode.setWidth 32

/-- Replacing a register by the low bits of a 32 bit value; the bits above its width are dropped (R51). -/
def Ccb.set (c : Ccb) (r : CcbReg) (v : Word) : Ccb :=
  match r with
  | .ccbBase => { c with ccbBase := v }
  | .ccbEnd => { c with ccbEnd := v }
  | .copIntVec n => { c with copIntVec := c.copIntVec.set n v }
  | .extIntVec n => { c with extIntVec := c.extIntVec.set n v }
  | .intModeIl => { c with intModeIl := v.setWidth 12 }
  | .intModeUm => { c with intModeUm := v.setWidth 12 }
  | .intMask => { c with intMask := v.setWidth 12 }
  | .intServ => { c with intServ := v.setWidth 12 }
  | .intPend => { c with intPend := v.setWidth 12 }
  | .extIntPri => { c with extIntPri := v }
  | .copIntPri => { c with copIntPri := v.setWidth 16 }
  | .exceptionCs => { c with exceptionCs := v.setWidth 8 }
  | .exceptionPc => { c with exceptionPc := v }
  | .exceptionPsr => { c with exceptionPsr := v.setWidth 8 }
  | .dmemBoundLo => { c with dmemBoundLo := v }
  | .dmemBoundHi => { c with dmemBoundHi := v }
  | .imemBoundLo => { c with imemBoundLo := v }
  | .imemBoundHi => { c with imemBoundHi := v }
  | .memPconf => { c with memPconf := v.setWidth 2 }
  | .systemAddr => { c with systemAddr := v }
  | .excepAddr => { c with excepAddr := v }
  | .waitStates => { c with waitStates := v.setWidth 12 }
  | .cregIIndx => { c with cregIIndx := v.setWidth 20 }
  | .tmr0Cnt => { c with tmr0Cnt := v }
  | .tmr0MaxCnt => { c with tmr0MaxCnt := v }
  | .tmr1Cnt => { c with tmr1Cnt := v }
  | .tmr1MaxCnt => { c with tmr1MaxCnt := v }
  | .tmrConf => { c with tmrConf := v }
  | .copIfMode => { c with copIfMode := v.setWidth 8 }

/-- `INT_MASK_RESET`: one of the two candidates of conflict C2 (R58, D6; log 7). DESIGN CHOICE, unsafe only for a claim about
which of the two it is. -/
def intMaskResetOf (p : Params) : BitVec 12 :=
  if p.intMaskResetOnes then 0xFFF#12 else 0x000#12

/-- The CCB after reset (R86). -/
def Ccb.launch (p : Params) : Ccb :=
  { ccbBase := 0x00010000#32
    ccbEnd := 0x000100FF#32
    copIntVec := Vector.replicate 4 0#32
    extIntVec := Vector.replicate 8 0#32
    intModeIl := 0xFFF#12
    intModeUm := 0x000#12
    intMask := intMaskResetOf p
    intServ := 0x000#12
    intPend := 0x000#12
    extIntPri := 0#32
    copIntPri := 0#16
    exceptionCs := 0#8
    exceptionPc := 0#32
    exceptionPsr := 0#8
    dmemBoundLo := 0#32
    dmemBoundHi := 0xFFFFFFFF#32
    imemBoundLo := 0#32
    imemBoundHi := 0xFFFFFFFF#32
    memPconf := 0b11#2
    systemAddr := 0#32
    excepAddr := 0#32
    waitStates := 0xFFF#12
    cregIIndx := 0#20
    tmr0Cnt := 0#32
    tmr0MaxCnt := 0#32
    tmr1Cnt := 0#32
    tmr1MaxCnt := 0#32
    tmrConf := 0#32
    copIfMode := 0#8 }

end Sys2Proof.Machine
end

