-- ==== Sys2Proof/Machine/State.lean ====
section
/-! DEFINITION. The state of the machine (R89), the reasons a step can stop, and the state after reset (R83 to R86, R270 to
R273). Plain data. -/

namespace Sys2Proof.Machine

/-- The implemented flags of PSR, bits 4 to 0 in this order (R30). Bits 7:5 read as zeros and have no storage. -/
structure Psr where
  /-- IE, bit 4: interrupts enabled (R33). -/
  ie : Bool
  /-- IL, bit 3: instruction words are 32 bits (R34). -/
  il : Bool
  /-- RSWR, bit 2: the target register set is SET 2 (R35). -/
  rswr : Bool
  /-- RSRD, bit 1: the source register set is SET 2 (R36). -/
  rsrd : Bool
  /-- UM, bit 0: user mode (R37). -/
  um : Bool
  deriving DecidableEq, Repr

/-- An access the core made to the external peripheral configuration block (R106, D30). -/
inductive PcbEvent
  | read (a : Word)
  | write (a v : Word)
  deriving DecidableEq, Repr

/-- What a coprocessor received from one `cop` (R180). -/
structure CopEvent where
  /-- The coprocessor's number. -/
  n : BitVec 2
  /-- Its register index, taken from CREG_I_INDX (R74). -/
  index : BitVec 5
  /-- The coprocessor instruction word. -/
  word : Word
  deriving DecidableEq, Repr

/-- The hidden bookkeeping of an interrupt entry (R88 (c)): which source was taken, and the interrupted pc and PSR, for which the
source names no register (R237). -/
structure IntEntry where
  source : Fin 12
  returnPc : Word
  returnPsr : Psr
  deriving DecidableEq, Repr

/-- The machine. The first nine fields and `storedTo`, `intEntry` are the state of R89; `requests`, `cops` and `cfg` are
inputs of the step, which R89 keeps apart; the two logs are what devices outside the core received; `draws` is the model's own
counter of free values (log 8). -/
structure State where
  /-- R0 to R31 (R21). -/
  r : Vector Word 32
  /-- PR0 to PR28 (R22). -/
  pr : Vector Word 29
  /-- PR31 (R22, R24). -/
  pr31 : Word
  /-- PSR (R30). -/
  psr : Psr
  /-- SPSR (R39). -/
  spsr : Word
  /-- C0 to C7 (R44). -/
  cr : Vector CondReg 8
  /-- The address of the instruction being executed (R49). -/
  pc : Word
  /-- The internal CCB registers (R50). -/
  ccb : Ccb
  /-- Data memory: (address, 32 bit cell), addresses strictly rising, no cell that reads as an unlisted one (R102, R107). -/
  mem : List (Nat × Word)
  /-- Instruction memory, in the same form (R100, R118). -/
  imem : List (Nat × CodeWord)
  /-- The data memory addresses stored to since reset, strictly rising (R125). -/
  storedTo : List Nat
  /-- The interrupt entry that has happened, if one has (R88, R237). -/
  intEntry : Option IntEntry
  /-- The 12 interrupt request lines as read at the last instruction boundary (R221). -/
  requests : BitVec 12
  /-- What the core did to the PCB, oldest first (D30, R122). -/
  pcbLog : List PcbEvent
  /-- What the coprocessors received, oldest first (R180). -/
  copLog : List CopEvent
  /-- Bit n: coprocessor n has a model attached (R5, R181; log 17). -/
  cops : BitVec 4
  /-- The OPEN parameters (R7). No step changes them. -/
  cfg : Params
  /-- How many free values have been taken (log 8). The model's own field. -/
  draws : Nat
  deriving DecidableEq, Repr

/-- The reasons for a fault. There is none: the spec names no event that stops the machine with a fault; a violation enters
the exception handler, which is a next state (R240). Safe: no case of the spec is lost. -/
inductive Fault
  deriving DecidableEq, Repr

/-- The reasons for a refusal: the spec's `refuse`, "the spec gives the situation no meaning; a model must not continue past it
as if it had one" (R11). Each is safe: nothing can be proved of what the hardware does there. -/
inductive Refusal
  /-- Raised by `exec`'s arm of an instruction that has no meaning yet. No arm does. Safe. -/
  | notModelled (mnemonic : String)
  /-- Raised by the fetch: the word at pc is bits, which no rule gives a meaning (R147, 93 U14), a term of the other word length,
  whose bits are unknown in this one (R140), or a term that no 16 bit word carries (R147). Safe. -/
  | undecodable (why : DecodeError)
  /-- Raised by the fetch: pc is not a multiple of ISTEP (R119, 93 U21). Safe. -/
  | misalignedFetch
  /-- Raised by the step after an interrupt entry (R237, 93 U16). Safe. -/
  | afterInterruptEntry
  /-- Raised by `ld` and `st`: a register field above 7 in 16 bit mode, which no word can carry (R147). Safe. -/
  | fieldNotIn16BitMode
  /-- Raised by `st` to CCB offsets 27h to ffh (R81, 93 U1). Safe. -/
  | reservedCcbOffset
  /-- Raised by `st` to a read only CCB register (R109, D27, 93 U7). Safe. -/
  | readOnlyCcbRegister
  /-- Raised by `st` to INT_SERV, TMR0_CNT or TMR1_CNT (R109, D12, D17, 93 U7). Safe. -/
  | statusCcbRegister
  /-- Raised by `st` of a value with bits 7:0 not zero to CCB_BASE (R109, D19, 93 U3). Safe. -/
  | ccbBaseNotAligned
  /-- Raised by `scall` with UM = 0 (R173, D32, 93 U17). Safe. -/
  | scallBySuperUser
  /-- Raised by `retu` with UM = 1 (R173, D32, 93 U17). Safe. -/
  | retuByUser
  /-- Raised by `cop` to a coprocessor with no model attached (R181, D31, 93 U18). Safe. -/
  | noCoprocessorModel
  deriving DecidableEq, Repr

/-- The machine right after reset, with the parameters, the entry point RESET_PC and the two memory contents that the spec makes
part of the launch state (R271, R273, D5). -/
def State.launch (p : Params) (resetPc : Word) (mem : List (Nat × Word)) (imem : List (Nat × CodeWord)) : State :=
  { r := Vector.replicate 32 0#32
    pr := Vector.replicate 29 0#32
    pr31 := 0#32
    psr := { ie := false, il := true, rswr := true, rsrd := true, um := false }
    spsr := 0x00000009#32
    cr := Vector.replicate 8 { z := false, n := false, c := false }
    pc := resetPc
    ccb := Ccb.launch p
    mem := mem
    imem := imem
    storedTo := []
    intEntry := none
    requests := 0#12
    pcbLog := []
    copLog := []
    cops := 0xF#4
    cfg := p
    draws := 0 }

/-- The machine right after reset: unconstrained parameters (log 5), entry at address 0 (the spec's suggested RESET_PC; log 6),
nothing listed in either memory (logs 3, 4). -/
def State.reset : State :=
  State.launch Config.params 0#32 [] []

end Sys2Proof.Machine
end

