-- ==== Sys2Proof/Machine/Cells.lean ====
section
/-! DEFINITION. Sparse memories in one canonical form: a list of (address, content) pairs, addresses strictly rising, no entry
equal to what an unlisted address reads as. Data memory and instruction memory both are such lists (R100, R102; log 2). -/

namespace Sys2Proof.Machine

/-- What the list `m` holds at address `a`; `d` is what an unlisted address reads as. -/
def cellsRead {α : Type} (d : α) : List (Nat × α) → Nat → α
  | [], _ => d
  | (k, v) :: t, a => if k = a then v else cellsRead d t a

/-- The list with address `a` holding `v`. Writing what an unlisted address reads as removes the entry. -/
def cellsWrite {α : Type} [DecidableEq α] (d : α) : List (Nat × α) → Nat → α → List (Nat × α)
  | [], a, v => if v = d then [] else [(a, v)]
  | (k, x) :: t, a, v =>
    if a < k then (if v = d then (k, x) :: t else (a, v) :: (k, x) :: t)
    else if a = k then (if v = d then t else (a, v) :: t)
    else (k, x) :: cellsWrite d t a v

/-- Every address is above `lo`, each above the one before it, and below 2^32. -/
def risingFrom : Nat → List Nat → Bool
  | _, [] => true
  | lo, k :: t => decide (lo ≤ k) && decide (k < 2 ^ 32) && risingFrom (k + 1) t

/-- The canonical form of a memory list. -/
def cellsWf {α : Type} [DecidableEq α] (d : α) (m : List (Nat × α)) : Bool :=
  risingFrom 0 (m.map Prod.fst) && m.all (fun e => decide (e.2 ≠ d))

/-- The list of addresses with `a` in it, kept strictly rising. -/
def addrInsert (a : Nat) : List Nat → List Nat
  | [] => [a]
  | k :: t => if a < k then a :: k :: t else if a = k then k :: t else k :: addrInsert a t

/-- What a data cell nothing has written reads as. DESIGN CHOICE, unsafe (log 3): the spec makes the initial content part of the
launch state (R273). -/
def unlistedCell : Word := 0#32

/-- What an instruction address nothing was placed at holds: bits without a known meaning, so fetching it is refused. DESIGN
CHOICE, safe (log 4). -/
def unlistedCode : CodeWord := .raw 0#32

/-- `MemRead(a, 32)` of R107. -/
def memRead (m : List (Nat × Word)) (a : Word) : Word :=
  cellsRead unlistedCell m a.toNat

/-- `MemWrite(a, 32, v)` of R107. -/
def memWrite (m : List (Nat × Word)) (a v : Word) : List (Nat × Word) :=
  cellsWrite unlistedCell m a.toNat v

/-- The canonical form of data memory. -/
def memWf (m : List (Nat × Word)) : Bool :=
  cellsWf unlistedCell m

/-- What instruction memory holds at an address (R118). -/
def codeRead (m : List (Nat × CodeWord)) (a : Word) : CodeWord :=
  cellsRead unlistedCode m a.toNat

/-- Instruction memory with `w` at an address. Only the outside world writes it (log 1). -/
def codeWrite (m : List (Nat × CodeWord)) (a : Word) (w : CodeWord) : List (Nat × CodeWord) :=
  cellsWrite unlistedCode m a.toNat w

/-- The canonical form of instruction memory. -/
def codeWf (m : List (Nat × CodeWord)) : Bool :=
  cellsWf unlistedCode m

end Sys2Proof.Machine
end

