-- ==== Sys2Proof/Machine/Ops.lean ====
section
/-! DEFINITION. The named operations over the state: the PSR as a number, register access through the set selectors, the pc,
free values, memory protection, the data access path, taking an exception and returning to user mode. -/

namespace Sys2Proof.Machine

/-! ### PSR (R30, R31) -/

/-- PSR as its 8 bits: zeros in 7:5, then IE, IL, RSWR, RSRD, UM (R30). -/
def Psr.bits (p : Psr) : BitVec 8 :=
  0#3 ++ BitVec.ofBool p.ie ++ BitVec.ofBool p.il ++ BitVec.ofBool p.rswr ++ BitVec.ofBool p.rsrd ++ BitVec.ofBool p.um

/-- PSR read as a register: zero extended to 32 bits (R31). -/
def Psr.word (p : Psr) : Word :=
  p.bits.setWidth 32

/-- A PSR value with UM = 0 from its four other flags: SCALL_PSR and EXC_PSR (R7). -/
def superPsr (f : SuperFlags) : Psr :=
  { ie := f.ie, il := f.il, rswr := f.rswr, rsrd := f.rsrd, um := false }

/-! ### Small updates of the state -/

/-- The state with another pc. -/
def State.setPc (s : State) (a : Word) : State := { s with pc := a }

/-- The state with another PSR. -/
def State.setPsr (s : State) (p : Psr) : State := { s with psr := p }

/-- The state with another CCB. -/
def State.setCcb (s : State) (c : Ccb) : State := { s with ccb := c }

/-- The state after one more free value was taken (log 8). -/
def State.drawn (s : State) : State := { s with draws := s.draws + 1 }

/-- `draw(32 bits)` of R11: a free value that nothing constrains (log 8). -/
def State.freeWord (s : State) : Word := Config.draw s.draws

/-! ### The program counter (R49) -/

/-- `ISTEP(il)` (D4). -/
def istep (p : Params) (il : Bool) : Word :=
  if il then p.istep32 else p.istep16

/-- `next(pc)`: pc + ISTEP(PSR.IL) modulo 2^32 (R11, R49). -/
def nextPc (s : State) : Word :=
  s.pc + istep s.cfg s.psr.il

/-- Ending an instruction that is not a control transfer: `pc <- next(pc)` (R49). -/
def State.advance (s : State) : State :=
  s.setPc (nextPc s)

/-! ### Register access through the selectors (R27, R28) -/

/-- SET 2 read at an architectural index: PSR at 29, SPSR at 30 (R23, R27, R31). -/
def readSet2 (s : State) (i : Fin 32) : Word :=
  if h : i.val < 29 then s.pr[i.val]
  else if i.val = 29 then s.psr.word
  else if i.val = 30 then s.spsr
  else s.pr31

/-- `x[i]` as a source (R27): the set PSR.RSRD selects. -/
def readReg (s : State) (i : Fin 32) : Word :=
  if s.psr.rsrd then readSet2 s i else s.r[i]

/-- SET 2 written at an architectural index: a write to PSR is ignored (R28, R32), SPSR takes all 32 bits (R40). -/
def writeSet2 (s : State) (i : Fin 32) (v : Word) : State :=
  if h : i.val < 29 then { s with pr := s.pr.set i.val v }
  else if i.val = 29 then s
  else if i.val = 30 then { s with spsr := v }
  else { s with pr31 := v }

/-- `x[i] <- v` (R28): the set PSR.RSWR selects. -/
def writeReg (s : State) (i : Fin 32) (v : Word) : State :=
  if s.psr.rswr then writeSet2 s i v else { s with r := s.r.set i v }

/-! ### Memory protection (R110 to R114) -/

/-- `inside` of R110: both bounds are included and the comparison is unsigned. -/
def insideBounds (lo hi a : Word) : Bool :=
  decide (lo ≤ a) && decide (a ≤ hi)

/-- The rule shared by R110 and R111: a high bit protects the area, a low bit allows it and protects the rest. -/
def areaAllowed (protectedArea : Bool) (lo hi a : Word) : Bool :=
  if protectedArea then !insideBounds lo hi a else insideBounds lo hi a

/-- `DataAllowed(a)` (R110). -/
def dataAllowed (c : Ccb) (a : Word) : Bool :=
  areaAllowed (c.memPconf.getLsbD 1) c.dmemBoundLo c.dmemBoundHi a

/-- `InstrAllowed(a)` (R111). -/
def instrAllowed (c : Ccb) (a : Word) : Bool :=
  areaAllowed (c.memPconf.getLsbD 0) c.imemBoundLo c.imemBoundHi a

/-- A data access that raises: only the user is checked (R104, R105, R113). -/
def dataForbidden (s : State) (a : Word) : Bool :=
  s.psr.um && !dataAllowed s.ccb a

/-- A fetch that raises (R118, R113). -/
def fetchForbidden (s : State) : Bool :=
  s.psr.um && !instrAllowed s.ccb s.pc

/-! ### The data access path (R103 to R109) -/

/-- Where a data address leads (R121). -/
inductive DataTarget
  /-- An internal CCB register. -/
  | ccb (r : CcbReg)
  /-- CCB offsets 27h to ffh (R81). -/
  | reserved
  /-- The external peripheral configuration block (R106). -/
  | pcb
  /-- Ordinary data memory (R107). -/
  | memory
  deriving DecidableEq, Repr

/-- The address is in the CCB window: `a[31:8] = base[31:8]` (R103). -/
def inCcbWindow (c : Ccb) (a : Word) : Bool :=
  decide (a.extractLsb' 8 24 = c.ccbBase.extractLsb' 8 24)

/-- The address is in the PCB window CCB_BASE + 100h to CCB_END, both included; empty when the sum wraps (R104, R106). -/
def inPcbWindow (c : Ccb) (a : Word) : Bool :=
  decide (c.ccbBase + 0x100#32 ≤ a) && decide (a ≤ c.ccbEnd) && decide (0x100#32 ≤ c.ccbBase + 0x100#32)

/-- The window tests in the order of R104 and R105: CCB, PCB, memory (D20). -/
def dataTarget (c : Ccb) (a : Word) : DataTarget :=
  if inCcbWindow c a then
    match CcbReg.ofOffset (a.extractLsb' 0 8) with
    | some r => .ccb r
    | none => .reserved
  else if inPcbWindow c a then .pcb
  else .memory

/-- The value `DataRead(a)` returns once the protection check has passed (R104). A reserved offset and the PCB give a free
value (R81, R106). -/
def dataReadValue (s : State) (a : Word) : Word :=
  match dataTarget s.ccb a with
  | .ccb r => s.ccb.get r
  | .reserved => s.freeWord
  | .pcb => s.freeWord
  | .memory => memRead s.mem a

/-- What `DataRead(a)` does to the state: nothing for the CCB (R108) and memory (R107); a free value is taken for a reserved
offset and for the PCB, whose accesses are recorded (D30). -/
def dataReadState (s : State) (a : Word) : State :=
  match dataTarget s.ccb a with
  | .ccb _ => s
  | .reserved => s.drawn
  | .pcb => { s.drawn with pcbLog := s.pcbLog ++ [.read a] }
  | .memory => s

/-- `CCBWrite(k, v)` (R109). -/
def ccbWrite (c : Ccb) (r : CcbReg) (v : Word) : Except Refusal Ccb :=
  match r.access with
  | .readOnly => .error .readOnlyCcbRegister
  | .status => .error .statusCcbRegister
  | .rw =>
    if r = .ccbBase ∧ v.extractLsb' 0 8 ≠ 0#8 then .error .ccbBaseNotAligned
    else .ok (c.set r v)

/-- `MemWrite` on the state, with the address noted as stored to (R107, R125). -/
def State.storeCell (s : State) (a v : Word) : State :=
  { s with mem := memWrite s.mem a v, storedTo := addrInsert a.toNat s.storedTo }

/-- `DataWrite(a, v)` once the protection check has passed (R105). -/
def dataWrite (s : State) (a v : Word) : Except Refusal State :=
  match dataTarget s.ccb a with
  | .ccb r =>
    match ccbWrite s.ccb r v with
    | .ok c => .ok (s.setCcb c)
    | .error e => .error e
  | .reserved => .error .reservedCcbOffset
  | .pcb => .ok { s with pcbLog := s.pcbLog ++ [.write a v] }
  | .memory => .ok (s.storeCell a v)

/-! ### Exceptions and the return to user mode (R240, R172) -/

/-- `EXC_CODE` (R242). -/
def excCode (p : Params) : Cause → BitVec 8
  | .dataProtection => p.excCodeData
  | .instrProtection => p.excCodeInstr
  | .privilege => p.excCodePrivilege

/-- The three EXCEPTION registers written (R63 to R65). -/
def Ccb.recordException (c : Ccb) (code : BitVec 8) (pc : Word) (psr : BitVec 8) : Ccb :=
  { c with exceptionCs := code, exceptionPc := pc, exceptionPsr := psr }

/-- `raise c` of R240: the cause code, the instruction's address and the PSR it was decoded with go to the EXCEPTION registers,
PSR becomes EXC_PSR and pc EXCEP_ADDR. Nothing else changes (log 18). -/
def takeException (c : Cause) (s : State) : State :=
  { s with
    ccb := s.ccb.recordException (excCode s.cfg c) s.pc s.psr.bits
    psr := superPsr s.cfg.excPsr
    pc := s.ccb.excepAddr }

/-- The return to user mode that `retu` makes (R172): IE and IL from SPSR, SET 1 for both selectors, user mode, pc from PR31. The
spec names no other return from a handler (R243). -/
def returnToUser (s : State) : State :=
  { s with
    psr := { ie := s.spsr.getLsbD 4, il := s.spsr.getLsbD 3, rswr := false, rsrd := false, um := true }
    pc := s.pr31 }

end Sys2Proof.Machine
end

