-- ==== Sys2Proof/Machine/Operands.lean ====
section
/-! DEFINITION. Operand forms: register fields in the two word lengths (R42, R143) and the effective address (R162). -/

namespace Sys2Proof.Machine

/-- `ridx(f)` (R42): the field itself in 32 bit mode, f + 24 for f in 0 to 7 in 16 bit mode; no 16 bit word carries a greater
field (R147). -/
def ridx (il : Bool) (f : BitVec 5) : Option (Fin 32) :=
  if il then some f.toFin
  else if h : f.toNat < 8 then some ⟨f.toNat + 24, by omega⟩
  else none

/-- The field an assembler emits for an architectural index (R149, R43): none in 16 bit mode below index 24. -/
def fieldOf (il : Bool) (i : Fin 32) : Option (BitVec 5) :=
  if il then some (BitVec.ofFin i)
  else if 24 ≤ i.val then some (BitVec.ofNat 5 (i.val - 24))
  else none

/-- A source operand: the register a field names, read through the source set selector (R27, R42). -/
def readField (s : State) (f : BitVec 5) : Option Word :=
  (ridx s.psr.il f).map (readReg s)

/-- The values of several source operands. -/
def readFields (s : State) : List (BitVec 5) → Option (List Word)
  | [] => some []
  | f :: fs =>
    match readField s f, readFields s fs with
    | some v, some vs => some (v :: vs)
    | _, _ => none

/-- `EA(<address operands>)` (R162; log 10). -/
def effectiveAddress (s : State) : AddrOperand → Option Word
  | .given ea => some ea
  | .formed fs rest => (readFields s fs).map (fun vs => Config.formEa vs rest)

end Sys2Proof.Machine
end

