-- ==== Sys2Proof/Machine/Flags.lean ====
section
/-! DEFINITION. The condition registers (R44 to R48): which one an instruction reads or writes, and reading, writing and testing
it. How the flags are computed and what the conditions are is not in the source (R190, R191, R192; log 27). -/

namespace Sys2Proof.Machine

/-- The condition register used: the one selected in 32 bit mode, C0 in 16 bit mode (R47). -/
def crIndex (il : Bool) (k : Fin 8) : Fin 8 :=
  if il then k else 0

/-- Reading a condition register (R46, R47). -/
def readCr (s : State) (k : Fin 8) : CondReg :=
  s.cr[crIndex s.psr.il k]

/-- Writing all three flags of a condition register together (R45, R47). -/
def writeCr (s : State) (k : Fin 8) (f : CondReg) : State :=
  { s with cr := s.cr.set (crIndex s.psr.il k) f }

/-- Whether a condition holds of the selected condition register (R46, R192). -/
def conditionHolds (s : State) (cond : Nat) (k : Fin 8) : Bool :=
  Config.holds cond (readCr s k)

end Sys2Proof.Machine
end

