-- ==== Sys2Proof/Machine/Coprocessor.lean ====
section
/-! DEFINITION. `cop` (42_coprocessor.md R180 to R182). -/

namespace Sys2Proof.Machine

/-- The register index of coprocessor `n`: CREG_I_INDX[5n+4 : 5n] (R74). -/
def copIndex (c : Ccb) (n : BitVec 2) : BitVec 5 :=
  c.cregIIndx.extractLsb' (5 * n.toNat) 5

/-- The state with one more word received by a coprocessor (R180). -/
def State.recordCop (s : State) (e : CopEvent) : State := { s with copLog := s.copLog ++ [e] }

/-- `cop n, w` (R180): an attached coprocessor n receives w at its register index; pc advances. A coprocessor model here is a
recorder of what it receives (log 17); without one the spec has the instruction refused (R181). -/
def execCop (n : BitVec 2) (w : Word) (s : State) : Host.Outcome State Fault Refusal :=
  if s.cops.getLsbD n.toNat then
    .next (s.recordCop { n := n, index := copIndex s.ccb n, word := w }).advance
  else .refused .noCoprocessorModel

end Sys2Proof.Machine
end

