-- ==== Sys2Proof/Machine/LoadStore.lean ====
section
/-! DEFINITION. `ld` and `st` (40_load_store.md R160 to R163). Neither is privileged and neither writes a condition register. -/

namespace Sys2Proof.Machine

/-- `ld d, <address operands>` (R160). -/
def execLd (d : BitVec 5) (op : AddrOperand) (s : State) : Host.Outcome State Fault Refusal :=
  match ridx s.psr.il d, effectiveAddress s op with
  | some i, some ea =>
    if dataForbidden s ea then .next (takeException .dataProtection s)
    else .next (writeReg (dataReadState s ea) i (dataReadValue s ea)).advance
  | _, _ => .refused .fieldNotIn16BitMode

/-- `st src, <address operands>` (R161). -/
def execSt (src : BitVec 5) (op : AddrOperand) (s : State) : Host.Outcome State Fault Refusal :=
  match readField s src, effectiveAddress s op with
  | some v, some ea =>
    if dataForbidden s ea then .next (takeException .dataProtection s)
    else
      match dataWrite s ea v with
      | .ok t => .next t.advance
      | .error e => .refused e
  | _, _ => .refused .fieldNotIn16BitMode

end Sys2Proof.Machine
end

