-- ==== Sys2Proof/Machine/System.lean ====
section
/-! DEFINITION. The mode switching instructions `scall`, `retu` and `chrs` (41_system.md R170 to R175). None writes a condition
register. -/

namespace Sys2Proof.Machine

/-- `scall` (R170, R171): SPSR[7:0] takes PSR, SPSR[31:8] a free value (D9), PR31 the link address next(pc) (D10), PSR becomes
SCALL_PSR (D8) and pc SYSTEM_ADDR. By the super user it has no meaning (R173). -/
def execScall (s : State) : Host.Outcome State Fault Refusal :=
  if s.psr.um then
    .next
      { s.drawn with
        spsr := s.freeWord.extractLsb' 0 24 ++ s.psr.bits
        pr31 := nextPc s
        psr := superPsr s.cfg.scallPsr
        pc := s.ccb.systemAddr }
  else .refused .scallBySuperUser

/-- `retu` (R172). By the user it has no meaning (R173). -/
def execRetu (s : State) : Host.Outcome State Fault Refusal :=
  if s.psr.um then .refused .retuByUser else .next (returnToUser s)

/-- `chrs (rd, wr)` (R174). In user mode it raises PrivilegeViolation, the choice R175 leaves a model that continues
(log 16). -/
def execChrs (rd wr : Bool) (s : State) : Host.Outcome State Fault Refusal :=
  if s.psr.um then .next (takeException .privilege s)
  else .next (s.setPsr { s.psr with rsrd := rd, rswr := wr }).advance

end Sys2Proof.Machine
end

