-- ==== Sys2Proof/Machine/Dispatch.lean ====
section
/-! DEFINITION. The instruction dispatch: one arm per constructor of Instr. -/

namespace Sys2Proof.Machine

def exec (i : Instr) (s : State) : Host.Outcome State Fault Refusal :=
  match i with
  | .ld d op => Sys2Proof.Machine.execLd d op s
  | .st src op => Sys2Proof.Machine.execSt src op s
  | .scall => Sys2Proof.Machine.execScall s
  | .retu => Sys2Proof.Machine.execRetu s
  | .chrs rd wr => Sys2Proof.Machine.execChrs rd wr s
  | .cop n w => Sys2Proof.Machine.execCop n w s

end Sys2Proof.Machine
end

