-- ==== Sys2Proof/Machine/Fetch.lean ====
section
/-! DEFINITION. Instruction fetch (R118, R119, R125): what instruction memory gives at pc, decoded in the word length in force
(R140), and executed. -/

namespace Sys2Proof.Machine

/-- With unified memory a fetch from an address stored to since reset gives a free word (R125, D16). -/
def fetchIsFree (s : State) : Bool :=
  s.storedTo.contains s.pc.toNat && s.cfg.unifiedMemory

/-- The bits of a word of the length `il` selects, zero extended (R118). -/
def wordBits (il : Bool) (w : Word) : Word :=
  if il then w else (w.extractLsb' 0 16).setWidth 32

/-- `draw` of the word length (R125, 93 U19): any word of the length PSR.IL selects, be it an instruction that can be written in it, the
old content of the address among them, or bits without a known meaning (log 23). -/
def freeCode (s : State) : CodeWord :=
  match (Config.drawInstr s.draws).filter (fun i => i.wellFormed s.psr.il) with
  | some i => .term s.psr.il i
  | none => .raw (wordBits s.psr.il s.freeWord)

/-- The instruction word at pc (R118, R125). -/
def fetchWord (s : State) : CodeWord :=
  if fetchIsFree s then freeCode s else codeRead s.imem s.pc

/-- The state after the fetch: a free word counts as taken. -/
def fetchState (s : State) : State :=
  if fetchIsFree s then s.drawn else s

/-- pc is a multiple of ISTEP(il) (R119, D4); a multiple of 0 is 0 alone. -/
def fetchAligned (s : State) : Bool :=
  decide (s.pc % istep s.cfg s.psr.il = 0#32)

/-- Fetch, decode and execute one instruction. The protection check comes first (R118, R244), then the alignment (R119; log 24), then
decoding; an instruction sees the PSR its predecessor left (R38, D29). -/
def runInstr (s : State) : Host.Outcome State Fault Refusal :=
  if fetchForbidden s then .next (takeException .instrProtection s)
  else if fetchAligned s then
    match decodeCode s.psr.il (fetchWord s) with
    | .ok i => exec i (fetchState s)
    | .error e => .refused (.undecodable e)
  else .refused .misalignedFetch

/-- What `withFetchWord` places: the instruction the decoder gives for a table word, as this mode's word, else the bits. -/
def codeOfTableWord (il : Bool) (nbits w : Nat) : CodeWord :=
  match decodeTableWord nbits w with
  | some i => encode il i
  | none => .raw (BitVec.ofNat 32 w)

/-- The state with a code word at pc, whatever was stored to that address before. -/
def placeAtPc (s : State) (w : CodeWord) : State :=
  { s with
    imem := codeWrite s.imem s.pc w
    storedTo := s.storedTo.filter (fun a => !decide (a = s.pc.toNat)) }

end Sys2Proof.Machine
end

