-- ==== Sys2Proof/Machine/Interrupts.lean ====
section
/-! DEFINITION. Interrupts: sources, vectors, priorities, candidates, the choice among them and the settled part of entry
(60_exceptions.md R220 to R239), and the agents outside the core that move between instructions (R13, R108). -/

namespace Sys2Proof.Machine

/-- `VEC(s)`: the entry address register of a source (R224, R82): coprocessors 0 to 3, then external interrupts 0 to 7. -/
def interruptVector (c : Ccb) (src : Fin 12) : Word :=
  if h : src.val < 4 then c.copIntVec[src.val] else c.extIntVec[src.val - 4]

/-- `PRI(s)` (R233): 0 is the highest priority, 15 the lowest (R232). -/
def interruptPriority (c : Ccb) (src : Fin 12) : BitVec 4 :=
  if src.val < 4 then c.copIntPri.extractLsb' (4 * src.val) 4 else c.extIntPri.extractLsb' (4 * (src.val - 4)) 4

/-- A candidate (R225): interrupts enabled (R222), its mask bit high (R223), and requesting (R221). -/
def candidate (s : State) (src : Fin 12) : Bool :=
  s.psr.ie && s.ccb.intMask.getLsbD src.val && s.requests.getLsbD src.val

/-- The twelve sources (R82). -/
def interruptSources : List (Fin 12) := [0, 1, 2, 3, 4, 5, 6, 7, 8, 9, 10, 11]

/-- The candidates of the best priority (R234). -/
def bestCandidates (s : State) : List (Fin 12) :=
  interruptSources.filter fun x =>
    candidate s x && interruptSources.all fun y => !candidate s y || decide (interruptPriority s.ccb x ≤ interruptPriority s.ccb y)

/-- The source taken at this boundary, if any: free to delay (R225, D21), free among equals (R234, D28). -/
def interruptChoice (s : State) : Option (Fin 12) :=
  match bestCandidates s with
  | [] => none
  | x :: xs =>
    if Config.takeInterrupt s.draws then (x :: xs)[Config.pickInterrupt s.draws % (xs.length + 1)]? else none

/-- The flags entry gives PSR (R236, D11): IL and UM from the source's bits, both selectors the negation of UM. IE after entry is
not given (R237 (a)): a free bit. -/
def interruptPsr (s : State) (src : Fin 12) : Psr :=
  { ie := s.freeWord.getLsbD 0
    il := s.ccb.intModeIl.getLsbD src.val
    rswr := !s.ccb.intModeUm.getLsbD src.val
    rsrd := !s.ccb.intModeUm.getLsbD src.val
    um := s.ccb.intModeUm.getLsbD src.val }

/-- INT_SERV and INT_PEND after an interrupt entry: free bits (R231, R230). -/
def Ccb.freeInterruptStatus (c : Ccb) (w : Word) : Ccb :=
  { c with intServ := w.extractLsb' 1 12, intPend := w.extractLsb' 13 12 }

/-- The settled part of interrupt entry (R235, R236). INT_SERV and INT_PEND afterwards are free (R231, R230). `intEntry` keeps the
hidden return state (R88 (c)) and marks that no meaning is given to what follows (R237). -/
def takeInterrupt (src : Fin 12) (s : State) : State :=
  { s.drawn with
    psr := interruptPsr s src
    pc := interruptVector s.ccb src
    ccb := s.ccb.freeInterruptStatus s.freeWord
    intEntry := some { source := src, returnPc := s.pc, returnPsr := s.psr } }

/-- The status registers that outside agents move: INT_PEND (R230) and the timers' current values (R75, R77, R250), with the free values
numbered `n`. -/
def Ccb.observed (c : Ccb) (n : Nat) : Ccb :=
  { c with intPend := Config.pendingBits n, tmr0Cnt := Config.timer0 n, tmr1Cnt := Config.timer1 n }

/-- What the agents outside the core do before an instruction: the request lines (R221), INT_PEND (R230) and the timers' current
values (R75, R77, R250) take free values (log 9). -/
def observe (s : State) : State :=
  { s.drawn with
    requests := Config.requestLines s.draws
    ccb := s.ccb.observed s.draws }

end Sys2Proof.Machine
end

