-- ==== Sys2Proof/Machine/Step.lean ====
section
/-! DEFINITION. One step of the machine: the outside agents move, then an interrupt is taken or one instruction runs (R225, R244).
After an interrupt entry the spec gives no meaning to execution (R237). -/

namespace Sys2Proof.Machine

/-- One step. -/
def step (s : State) : Host.Outcome State Fault Refusal :=
  match s.intEntry with
  | some _ => .refused .afterInterruptEntry
  | none =>
    match interruptChoice (observe s) with
    | some src => .next (takeInterrupt src (observe s))
    | none => runInstr (observe s)

/-- The state with a word of the opcode table placed where the next step fetches (log 1). -/
def State.withFetchWord (s : State) (nbits w : Nat) : State :=
  placeAtPc s (codeOfTableWord s.psr.il nbits w)

end Sys2Proof.Machine
end

