-- ==== Sys2Proof/Machine/Classes.lean ====
section
/-! DEFINITION. The instruction classes the spec names without a mnemonic (43_flag_and_link_classes.md R190 to R195). No row of
the opcode table belongs to them, so no constructor of Instr calls these operations; they state what every member of a class
does, over uninterpreted functions (log 27). -/

namespace Sys2Proof.Machine

/-- Compare instructions (R190): modifiers, a condition register number and two operands. DESIGN CHOICE (log 36): both operands are
register fields; the source describes no operand form for the class (R145, R190, N4). -/
def compareClass (modifiers : Nat) (k : Fin 8) (fa fb : BitVec 5) (s : State) : Host.Outcome State Fault Refusal :=
  match readField s fa, readField s fb with
  | some a, some b => .next (writeCr s k (Config.flagsCmp modifiers a b)).advance
  | _, _ => .refused .fieldNotIn16BitMode

/-- Flag setting arithmetic instructions (R191): the result goes to the target register, the flags to C0. DESIGN CHOICE (log 36):
there are two sources and both are register fields; the source describes no operand form for the class (R145, R191, N4). -/
def arithClass (op : Nat) (d fa fb : BitVec 5) (s : State) : Host.Outcome State Fault Refusal :=
  match ridx s.psr.il d, readField s fa, readField s fb with
  | some i, some a, some b =>
    .next (writeCr (writeReg s i (Config.arithOp op a b)) 0 (Config.flagsOp op a b (Config.arithOp op a b))).advance
  | _, _, _ => .refused .fieldNotIn16BitMode

/-- Conditional branches (R192). DESIGN CHOICE (log 36): the target is an address already computed; how it is formed is not in the
source (R192). -/
def branchClass (cond : Nat) (k : Fin 8) (target : Word) (s : State) : Host.Outcome State Fault Refusal :=
  if conditionHolds s cond k then .next (s.setPc target) else .next s.advance

/-- Conditionally executed instructions (R193): `body` when the condition holds, else only the pc advances. DESIGN CHOICE (log 35):
conditional execution exists in 16 bit mode too, where it tests C0, and any body can be conditional; neither is in the source
(R193, N11). -/
def conditionalClass (cond : Nat) (k : Fin 8) (body : State → Host.Outcome State Fault Refusal) (s : State) :
    Host.Outcome State Fault Refusal :=
  if conditionHolds s cond k then body s else .next s.advance

/-- The link a linking instruction other than `scall` writes: index 31 through the target set selector (R195, D25). -/
def writeLink (link : Word) (s : State) : State :=
  writeReg s 31 link

/-- The link such a return reads: index 31 through the source set selector (R195, D25). -/
def readLink (s : State) : Word :=
  readReg s 31

end Sys2Proof.Machine
end

