-- ==== Sys2Proof/Machine/Timing.lean ====
section
/-! DEFINITION. The access times WAIT_STATES sets (R73, R284). Timing only: no meaning reads them and the machine has no clock
(R126; log 26). -/

namespace Sys2Proof.Machine

/-- The access classes of R284. -/
inductive AccessClass
  /-- `cop` accesses, WAIT_STATES[11:8]. -/
  | coprocessor
  /-- Data memory and PCB accesses, WAIT_STATES[7:4]. -/
  | data
  /-- Instruction memory accesses, WAIT_STATES[3:0]. -/
  | instruction
  deriving DecidableEq, Repr

/-- One basic cycle plus the class's wait cycles (R284). -/
def accessCycles (c : Ccb) : AccessClass → Nat
  | .coprocessor => 1 + (c.waitStates.extractLsb' 8 4).toNat
  | .data => 1 + (c.waitStates.extractLsb' 4 4).toNat
  | .instruction => 1 + (c.waitStates.extractLsb' 0 4).toNat

end Sys2Proof.Machine
end

