-- ==== Sys2Proof/Safety.lean ====
section
/-! DEFINITION. What counts as a safe state and a safe run, in the terms the claims use: the invariant of every state, the part of
the state SET 2 that a user must not reach (R26), and which events a step went through. -/

namespace Sys2Proof.Machine

/-- The invariant every step keeps. -/
structure Inv (s : State) : Prop where
  /-- R29: in user mode both selectors name SET 1. -/
  userSet1 : s.psr.um = true → s.psr.rsrd = false ∧ s.psr.rswr = false
  /-- R52: bits 7:0 of CCB_BASE are zeros. -/
  ccbAligned : s.ccb.ccbBase.extractLsb' 0 8 = 0#8
  /-- Data memory is in canonical form. -/
  mem : memWf s.mem = true
  /-- Instruction memory is in canonical form. -/
  imem : codeWf s.imem = true
  /-- The addresses stored to are strictly rising. -/
  stored : risingFrom 0 s.storedTo = true

/-- The state with SET 2 (PR0 to PR28, SPSR, PR31) replaced. PSR is not replaced: it selects the mode. -/
def withSet2 (s : State) (pr : Vector Word 29) (spsr pr31 : Word) : State :=
  { s with pr := pr, spsr := spsr, pr31 := pr31 }

/-- The state with SET 2 blanked out. -/
def hideSet2 (s : State) : State :=
  withSet2 s (Vector.replicate 29 0#32) 0#32 0#32

/-- The state with other contents of data memory. -/
def withMemory (s : State) (m : List (Nat × Word)) : State :=
  { s with mem := m }

/-- The state with data memory blanked out. -/
def hideMemory (s : State) : State :=
  withMemory s []

/-- An outcome with a function applied to its next state. -/
def mapNext (f : State → State) : Host.Outcome State Fault Refusal → Host.Outcome State Fault Refusal
  | .next s => .next (f s)
  | .fault e => .fault e
  | .refused r => .refused r

/-- An outcome with SET 2 blanked out of its next state. -/
def hideOutcome (o : Host.Outcome State Fault Refusal) : Host.Outcome State Fault Refusal :=
  mapNext hideSet2 o

/-- The step from `s` takes the interrupt of source `src`. -/
def TakesInterrupt (s : State) (src : Fin 12) : Prop :=
  s.intEntry = none ∧ interruptChoice (observe s) = some src

/-- The step from `s` fetches and executes instruction `i`. -/
def Runs (s : State) (i : Instr) : Prop :=
  s.intEntry = none ∧ interruptChoice (observe s) = none ∧ fetchForbidden (observe s) = false ∧
    fetchAligned (observe s) = true ∧ decodeCode s.psr.il (fetchWord (observe s)) = .ok i

/-- The step from `s` to `t` is exception entry with cause `c` (R240). -/
def EntersException (s t : State) (c : Cause) : Prop :=
  t.ccb.exceptionCs = excCode s.cfg c ∧ t.ccb.exceptionPc = s.pc ∧ t.ccb.exceptionPsr = s.psr.bits ∧
    t.psr = superPsr s.cfg.excPsr ∧ t.pc = s.ccb.excepAddr

end Sys2Proof.Machine
end

