-- ==== Sys2Proof/Certificates/Slice0/Obligations.lean ====
section
/-! DEFINITION. The statements for the provers. Every statement holds for every value of the open parameters (`State.cfg`, any
`Params`) and of the free values (log 8). A docstring names the log entries a statement rests on where it states a choice of
the model or a decision of the spec. -/

open Sys2Proof Sys2Proof.Machine

/-! ### Decoding and running an instruction -/

/-- R147, U14: bits have no meaning in either word length and for any word of the opcode table, and a term with a register field that
no 16 bit word can carry is rejected in 16 bit mode. -/
def Obligations.BitPatternsHaveNoMeaning : Prop :=
  (∀ (il : Bool) (w : Word), decodeCode il (.raw w) = .error .noEncodingInSource) ∧
    (∀ nbits w : Nat, decodeTableWord nbits w = none) ∧
    (∀ i : Instr, (∃ f ∈ i.fields, 8 ≤ f.toNat) → decodeCode false (.term false i) = .error .notWritable)

/-- Log 1: every instruction that can be written in a word length decodes to itself there, with every operand, and its bits have no
known meaning in the other word length (R140). -/
def Obligations.DecodeOfEncodedTerm : Prop :=
  ∀ (il : Bool) (i : Instr), i.wellFormed il = true →
    decodeCode il (encode il i) = .ok i ∧ decodeCode (!il) (encode il i) = .error .otherWordLength

/-- R42: the register field mapping of the two word lengths, the same for a source and a target and applied before the set selection;
and in 16 bit mode no instruction changes a register of index 0 to 23 of either set. -/
def Obligations.RegisterFieldNamesIndex : Prop :=
  (∀ f : BitVec 5,
    (ridx true f).map Fin.val = some f.toNat ∧
      (f.toNat ≤ 7 → (ridx false f).map Fin.val = some (f.toNat + 24)) ∧
      (8 ≤ f.toNat → ridx false f = none)) ∧
    (∀ (s : State) (f : BitVec 5) (i : Fin 32), ridx s.psr.il f = some i → readField s f = some (readReg s i)) ∧
    (∀ (i : Instr) (s t : State), s.psr.il = false → exec i s = .next t →
      ∀ j : Fin 32, j.val < 24 → t.r[j] = s.r[j] ∧ readSet2 t j = readSet2 s j)

/-- The field the assembler emits for an index is the one field that names it (from R42, R43, R149). -/
def Obligations.RegisterFieldRoundTrip : Prop :=
  ∀ (il : Bool) (i : Fin 32) (f : BitVec 5), fieldOf il i = some f ↔ ridx il f = some i

/-- A step that fetches a word that decodes to `i` is `exec i` on the state as the outside agents and the fetch left it: the agents
change only the request lines, INT_PEND, the two timer values and the counter of free values (R108), the fetch at most that
counter. The order of the checks and sequential execution are D29, D20 and log 24. -/
def Obligations.StepRunsDecodedInstruction : Prop :=
  (∀ (s : State) (i : Instr), Runs s i → step s = exec i (fetchState (observe s))) ∧
    (∀ s : State,
      { observe s with
        requests := s.requests
        ccb := { (observe s).ccb with intPend := s.ccb.intPend, tmr0Cnt := s.ccb.tmr0Cnt, tmr1Cnt := s.ccb.tmr1Cnt }
        draws := s.draws } = s) ∧
    (∀ s : State, { fetchState s with draws := s.draws } = s)

/-- An instruction term placed at pc runs at the next step, when interrupts are disabled, the fetch is allowed and aligned, and nothing
was stored to pc (log 1). -/
def Obligations.PlacedTermRuns : Prop :=
  ∀ (s : State) (i : Instr),
    s.intEntry = none → s.psr.ie = false → (s.psr.um = true → instrAllowed s.ccb s.pc = true) →
    s.pc % istep s.cfg s.psr.il = 0#32 → codeRead s.imem s.pc = .term s.psr.il i →
    i.wellFormed s.psr.il = true → s.pc.toNat ∉ s.storedTo →
    step s = exec i (observe s)

/-- The two ways a fetch stops, when no interrupt is taken: pc is no multiple of ISTEP (U21), or the word fetched does not decode, for
any of the decoder's reasons (U14; logs 1, 11): bits, a term of the other word length, and a term no 16 bit word carries. A free
word, which a fetch gives after a store with unified memory (U19, log 23), runs as an instruction or is bits. A fetch the user
is not allowed comes first (log 24). -/
def Obligations.FetchStops : Prop :=
  ∀ s : State, s.intEntry = none → interruptChoice (observe s) = none →
    (s.psr.um = true → instrAllowed s.ccb s.pc = true) →
    (s.pc % istep s.cfg s.psr.il ≠ 0#32 → step s = .refused .misalignedFetch) ∧
      (s.pc % istep s.cfg s.psr.il = 0#32 →
        (∀ e, decodeCode s.psr.il (fetchWord (observe s)) = .error e → step s = .refused (.undecodable e)) ∧
          (fetchIsFree s = false → ∀ w, codeRead s.imem s.pc = .raw w →
            step s = .refused (.undecodable .noEncodingInSource)) ∧
          (fetchIsFree s = true →
            (∃ i, i.wellFormed s.psr.il = true ∧ step s = exec i (fetchState (observe s))) ∨
              step s = .refused (.undecodable .noEncodingInSource)) ∧
          (fetchIsFree s = false → ∀ i, codeRead s.imem s.pc = .term (!s.psr.il) i →
            step s = .refused (.undecodable .otherWordLength)) ∧
          (fetchIsFree s = false → ∀ i, codeRead s.imem s.pc = .term s.psr.il i → i.wellFormed s.psr.il = false →
            step s = .refused (.undecodable .notWritable)))

/-- With unified memory a fetch from an address stored to since reset gives a free word of the word length, an instruction that can be
written in it or bits, and takes a free value; without it, or from any other address, a fetch gives what instruction memory
holds (D16, U19; log 23). -/
def Obligations.FetchAfterStore : Prop :=
  ∀ s : State,
    (s.cfg.unifiedMemory = true → s.pc.toNat ∈ s.storedTo →
        fetchWord s = freeCode s ∧ fetchState s = s.drawn ∧
          ((∃ i, i.wellFormed s.psr.il = true ∧ freeCode s = .term s.psr.il i ∧
              decodeCode s.psr.il (fetchWord s) = .ok i) ∨
            ∃ w : Word, (s.psr.il = false → w.toNat < 2 ^ 16) ∧ freeCode s = .raw w)) ∧
      (s.cfg.unifiedMemory = false → fetchWord s = codeRead s.imem s.pc) ∧
      (s.pc.toNat ∉ s.storedTo → fetchWord s = codeRead s.imem s.pc)

/-! ### Registers -/

/-- R27: a source register is read from the set RSRD selects; SET 2 has PSR at 29 and SPSR at 30. -/
def Obligations.SourceSelector : Prop :=
  ∀ (s : State) (i : Fin 32),
    (s.psr.rsrd = false → readReg s i = s.r[i]) ∧
      (s.psr.rsrd = true →
        (∀ h : i.val < 29, readReg s i = s.pr[i.val]) ∧
          (i.val = 29 → readReg s i = s.psr.bits.setWidth 32) ∧
          (i.val = 30 → readReg s i = s.spsr) ∧
          (i.val = 31 → readReg s i = s.pr31))

/-- R28: a target register is written in the set RSWR selects; a write to PSR does nothing and a write to SPSR takes all 32 bits. The
equations say that nothing else of the state changes. -/
def Obligations.TargetSelector : Prop :=
  ∀ (s : State) (i : Fin 32) (v : Word),
    (s.psr.rswr = false → writeReg s i v = { s with r := s.r.set i v }) ∧
      (s.psr.rswr = true →
        (∀ h : i.val < 29, writeReg s i v = { s with pr := s.pr.set i.val v }) ∧
          (i.val = 29 → writeReg s i v = s) ∧
          (i.val = 30 → writeReg s i v = { s with spsr := v }) ∧
          (i.val = 31 → writeReg s i v = { s with pr31 := v }))

/-- What every register holds after a register write: only the named register of the selected set changes, and it holds the value, but
PSR keeps its own (from R27, R28, R32). -/
def Obligations.RegisterWriteFrame : Prop :=
  ∀ (s : State) (i j : Fin 32) (v : Word),
    (writeReg s i v).r[j] = (if s.psr.rswr = false ∧ j = i then v else s.r[j]) ∧
      readSet2 (writeReg s i v) j =
        (if s.psr.rswr = true ∧ j = i ∧ i.val ≠ 29 then v else readSet2 s j)

/-- R31: PSR read as a register is at most 0x1F, with IE, IL, RSWR, RSRD and UM in bits 4 to 0. -/
def Obligations.PsrReadsAsFiveBits : Prop :=
  ∀ s : State, s.psr.rsrd = true →
    readReg s 29 ≤ 0x0000001F#32 ∧
      (readReg s 29).getLsbD 4 = s.psr.ie ∧ (readReg s 29).getLsbD 3 = s.psr.il ∧
      (readReg s 29).getLsbD 2 = s.psr.rswr ∧ (readReg s 29).getLsbD 1 = s.psr.rsrd ∧
      (readReg s 29).getLsbD 0 = s.psr.um

/-! ### The core control block -/

/-- Each of the 39 registers is found at its own offset, offsets 00h to 26h each have one register, and 27h to ffh have none (from
R50, R81, R86). -/
def Obligations.CcbOffsetMap : Prop :=
  (∀ r : CcbReg, r.offset < 0x27 ∧ CcbReg.ofOffset (BitVec.ofNat 8 r.offset) = some r) ∧
    (∀ k : BitVec 8, k.toNat < 0x27 → ∃ r, CcbReg.ofOffset k = some r ∧ r.offset = k.toNat) ∧
    (∀ k : BitVec 8, 0x27 ≤ k.toNat → CcbReg.ofOffset k = none)

/-- An accepted write stores the low bits of the value, which read back zero extended, and leaves every other register alone. The
dropped bits are the spec's inference in R51; for MEM_PCONF two bits have storage (log 29). -/
def Obligations.CcbWriteThenRead : Prop :=
  ∀ (c c' : Ccb) (r q : CcbReg) (v : Word), ccbWrite c r v = .ok c' →
    c'.get r = (v.setWidth r.bits).setWidth 32 ∧ (q ≠ r → c'.get q = c.get q)

/-- The reset value of every internal CCB register, for every value of the parameters (from the table of R86). For INT_MASK the table
names the parameter INT_MASK_RESET alone; that it is one of 0x000 and 0xFFF is decision D6 and the model's choice (log 7). -/
def Obligations.CcbResetValues : Prop :=
  ∀ (p : Params) (pc0 : Word) (m : List (Nat × Word)) (im : List (Nat × CodeWord)),
    let c := (State.launch p pc0 m im).ccb
    c.get .ccbBase = 0x00010000#32 ∧ c.get .ccbEnd = 0x000100FF#32 ∧
      (∀ n, c.get (.copIntVec n) = 0#32) ∧ (∀ n, c.get (.extIntVec n) = 0#32) ∧
      c.get .intModeIl = 0xFFF#32 ∧ c.get .intModeUm = 0#32 ∧
      (c.get .intMask = 0#32 ∨ c.get .intMask = 0xFFF#32) ∧
      c.get .intServ = 0#32 ∧ c.get .intPend = 0#32 ∧ c.get .extIntPri = 0#32 ∧ c.get .copIntPri = 0#32 ∧
      c.get .exceptionCs = 0#32 ∧ c.get .exceptionPc = 0#32 ∧ c.get .exceptionPsr = 0#32 ∧
      c.get .dmemBoundLo = 0#32 ∧ c.get .dmemBoundHi = 0xFFFFFFFF#32 ∧
      c.get .imemBoundLo = 0#32 ∧ c.get .imemBoundHi = 0xFFFFFFFF#32 ∧ c.get .memPconf = 3#32 ∧
      c.get .systemAddr = 0#32 ∧ c.get .excepAddr = 0#32 ∧ c.get .waitStates = 0xFFF#32 ∧
      c.get .cregIIndx = 0#32 ∧ c.get .tmr0Cnt = 0#32 ∧ c.get .tmr0MaxCnt = 0#32 ∧
      c.get .tmr1Cnt = 0#32 ∧ c.get .tmr1MaxCnt = 0#32 ∧ c.get .tmrConf = 0#32 ∧ c.get .copIfMode = 0#32

/-- R83, R84: the registers after reset, for every launch: all general registers and all condition flags zero, PSR 0x0E. -/
def Obligations.RegisterResetValues : Prop :=
  ∀ (p : Params) (pc0 : Word) (m : List (Nat × Word)) (im : List (Nat × CodeWord)),
    let s := State.launch p pc0 m im
    (∀ i : Fin 32, s.r[i] = 0#32) ∧ (∀ i : Fin 29, s.pr[i] = 0#32) ∧ s.pr31 = 0#32 ∧
      (∀ k : Fin 8, s.cr[k] = { z := false, n := false, c := false }) ∧
      s.psr.bits = 0x0E#8 ∧ readReg s 29 = 0x0000000E#32 ∧ s.psr.ie = false ∧ s.psr.il = true ∧ s.psr.rswr = true ∧ s.psr.rsrd = true ∧
      s.psr.um = false

/-- SPSR after reset is 0x00000009, so a `retu` on it enters user mode with 32 bit words and interrupts disabled (the inference of R85);
`State.reset` is the launch with entry point 0 and empty memories (logs 3, 4, 6). -/
def Obligations.ResetSpsrAndEntry : Prop :=
  (∀ (p : Params) (pc0 : Word) (m : List (Nat × Word)) (im : List (Nat × CodeWord)),
    let s := State.launch p pc0 m im
    s.spsr = 0x00000009#32 ∧ s.pc = pc0 ∧ s.mem = m ∧ s.imem = im ∧ s.storedTo = [] ∧
      (returnToUser s).psr = { ie := false, il := true, rswr := false, rsrd := false, um := true }) ∧
    State.reset.pc = 0#32 ∧ State.reset.mem = [] ∧ State.reset.imem = []

/-- The invariant holds after reset, for every launch with canonical memories. -/
def Obligations.LaunchMeetsInvariant : Prop :=
  Inv State.reset ∧
    ∀ (p : Params) (pc0 : Word) (m : List (Nat × Word)) (im : List (Nat × CodeWord)),
      memWf m = true → codeWf im = true → Inv (State.launch p pc0 m im)

/-! ### The data access path and memory -/

/-- R103: with CCB_BASE bits 7:0 zero the window is the 256 addresses from CCB_BASE on; after reset 0x00010000 to 0x000100FF. -/
def Obligations.CcbWindowIs256Addresses : Prop :=
  (∀ (c : Ccb) (a : Word), c.ccbBase.extractLsb' 0 8 = 0#8 →
    (inCcbWindow c a = true ↔ c.ccbBase.toNat ≤ a.toNat ∧ a.toNat ≤ c.ccbBase.toNat + 0xFF)) ∧
    (∀ (p : Params) (a : Word),
      inCcbWindow (Ccb.launch p) a = true ↔ 0x00010000 ≤ a.toNat ∧ a.toNat ≤ 0x000100FF)

/-- Where a data address leads when CCB_BASE bits 7:0 are zero, as ranges of plain numbers (from R104, R105, D20). The clauses meet at
CCB_BASE + 26h, + 27h, + FFh, + 100h, CCB_END and CCB_END + 1, and no address falls under two. After reset no address
reaches a PCB (from R53, R106, R272). -/
def Obligations.DataAddressMap : Prop :=
  (∀ (p : Params) (a : Word), dataTarget (Ccb.launch p) a ≠ .pcb) ∧
  ∀ (c : Ccb) (a : Word), c.ccbBase.extractLsb' 0 8 = 0#8 →
    (∀ r, dataTarget c a = .ccb r ↔ a.toNat = c.ccbBase.toNat + r.offset) ∧
      (dataTarget c a = .reserved ↔
        c.ccbBase.toNat + 0x27 ≤ a.toNat ∧ a.toNat ≤ c.ccbBase.toNat + 0xFF) ∧
      (dataTarget c a = .pcb ↔ c.ccbBase.toNat + 0x100 ≤ a.toNat ∧ a.toNat ≤ c.ccbEnd.toNat) ∧
      (dataTarget c a = .memory ↔
        a.toNat < c.ccbBase.toNat ∨ (c.ccbBase.toNat + 0x100 ≤ a.toNat ∧ c.ccbEnd.toNat < a.toNat))

/-- A word stored to ordinary memory is what a load from the same address brings back on the state after the store, and a load from any
other ordinary address brings what it held before, for every form of the two address operands (from R107, R122; decisions D1,
D15; logs 2, 10). -/
def Obligations.StoreThenLoad : Prop :=
  ∀ (s t : State) (src d : BitVec 5) (op op' : AddrOperand) (a b v : Word) (i : Fin 32),
    memWf s.mem = true → readField s src = some v → ridx s.psr.il d = some i →
    effectiveAddress s op = some a → dataTarget s.ccb a = .memory → dataTarget s.ccb b = .memory →
    dataForbidden s a = false → dataForbidden s b = false →
    exec (.st src op) s = .next t → effectiveAddress t op' = some b →
    exec (.ld d op') t =
      .next ((writeReg t i (if b = a then v else memRead s.mem b)).setPc (nextPc t))

/-! ### Memory protection -/

/-- R110: `DataAllowed` for the two values of MEM_PCONF[1], bounds included, unsigned; with the reset values no data address is
allowed. -/
def Obligations.DataProtectionRule : Prop :=
  (∀ (c : Ccb) (a : Word),
    (c.memPconf.getLsbD 1 = true →
        (dataAllowed c a = true ↔ ¬ (c.dmemBoundLo.toNat ≤ a.toNat ∧ a.toNat ≤ c.dmemBoundHi.toNat))) ∧
      (c.memPconf.getLsbD 1 = false →
        (dataAllowed c a = true ↔ (c.dmemBoundLo.toNat ≤ a.toNat ∧ a.toNat ≤ c.dmemBoundHi.toNat)))) ∧
    (∀ (s : State) (a : Word), s.psr.um = false → dataForbidden s a = false) ∧
    (∀ (s : State) (a : Word), s.psr.um = true → dataForbidden s a = !dataAllowed s.ccb a) ∧
    (∀ (p : Params) (a : Word), dataAllowed (Ccb.launch p) a = false)

/-- R111: `InstrAllowed` for the two values of MEM_PCONF[0], consulted with UM = 1 only; with the reset values no instruction address is
allowed to the user. -/
def Obligations.InstrProtectionRule : Prop :=
  (∀ (c : Ccb) (a : Word),
    (c.memPconf.getLsbD 0 = true →
        (instrAllowed c a = true ↔ ¬ (c.imemBoundLo.toNat ≤ a.toNat ∧ a.toNat ≤ c.imemBoundHi.toNat))) ∧
      (c.memPconf.getLsbD 0 = false →
        (instrAllowed c a = true ↔ (c.imemBoundLo.toNat ≤ a.toNat ∧ a.toNat ≤ c.imemBoundHi.toNat)))) ∧
    (∀ s : State, s.psr.um = false → fetchForbidden s = false) ∧
    (∀ s : State, s.psr.um = true → fetchForbidden s = !instrAllowed s.ccb s.pc) ∧
    (∀ (p : Params) (a : Word), instrAllowed (Ccb.launch p) a = false)

/-- Bounds with LO above HI are the empty area: protected, everything is allowed; allowed, nothing is (the inference of R114). -/
def Obligations.EmptyAreaWhenBoundsCross : Prop :=
  ∀ (c : Ccb) (a : Word),
    (c.dmemBoundHi.toNat < c.dmemBoundLo.toNat → dataAllowed c a = c.memPconf.getLsbD 1) ∧
      (c.imemBoundHi.toNat < c.imemBoundLo.toNat → instrAllowed c a = c.memPconf.getLsbD 0)

/-! ### ld and st -/

/-- `ld` with an allowed address completes, whatever the address reaches: the value goes through the target selector (R28), the pc
advances and nothing else changes, but that a reserved offset and the PCB give a free value and a PCB access is recorded
(from R160; decisions D4, D18, D30). -/
def Obligations.LdCompletes : Prop :=
  ∀ (s : State) (d : BitVec 5) (op : AddrOperand) (i : Fin 32) (ea : Word),
    ridx s.psr.il d = some i → effectiveAddress s op = some ea → dataForbidden s ea = false →
    (∀ r, dataTarget s.ccb ea = .ccb r →
        exec (.ld d op) s = .next ((writeReg s i (s.ccb.get r)).setPc (nextPc s))) ∧
      (dataTarget s.ccb ea = .memory →
        exec (.ld d op) s = .next ((writeReg s i (memRead s.mem ea)).setPc (nextPc s))) ∧
      (dataTarget s.ccb ea = .reserved →
        exec (.ld d op) s = .next ((writeReg s.drawn i s.freeWord).setPc (nextPc s))) ∧
      (dataTarget s.ccb ea = .pcb →
        exec (.ld d op) s =
          .next ((writeReg { s.drawn with pcbLog := s.pcbLog ++ [.read ea] } i s.freeWord).setPc (nextPc s)))

/-- The frame of `ld` when it loads (from R160, R28): memory, the CCB, the flags, PSR and every register but the target keep their values. The target is
register i of the set RSWR selects. -/
def Obligations.LdFrame : Prop :=
  ∀ (s t : State) (d : BitVec 5) (op : AddrOperand) (i : Fin 32) (ea : Word),
    ridx s.psr.il d = some i → effectiveAddress s op = some ea → dataForbidden s ea = false →
    exec (.ld d op) s = .next t →
    (∀ b, memRead t.mem b = memRead s.mem b) ∧ t.imem = s.imem ∧ t.storedTo = s.storedTo ∧ t.ccb = s.ccb ∧
      t.psr = s.psr ∧ t.cr = s.cr ∧ t.intEntry = s.intEntry ∧ t.requests = s.requests ∧ t.copLog = s.copLog ∧
      t.cops = s.cops ∧ t.cfg = s.cfg ∧ (dataTarget s.ccb ea ≠ .pcb → t.pcbLog = s.pcbLog) ∧
      (∀ j : Fin 32, (s.psr.rswr = true ∨ j ≠ i) → t.r[j] = s.r[j]) ∧
      (∀ j : Fin 32, (s.psr.rswr = false ∨ j ≠ i) → readSet2 t j = readSet2 s j)

/-- `st` with an allowed address completes when the address reaches memory, the PCB or a writable CCB register (a value with bits 7:0
zero for CCB_BASE): the target takes the value and the pc advances (from R161, R109; decisions D4, D30). -/
def Obligations.StCompletes : Prop :=
  ∀ (s : State) (src : BitVec 5) (op : AddrOperand) (v ea : Word),
    readField s src = some v → effectiveAddress s op = some ea → dataForbidden s ea = false →
    (dataTarget s.ccb ea = .memory →
        exec (.st src op) s =
          .next (State.setPc { s with mem := memWrite s.mem ea v, storedTo := addrInsert ea.toNat s.storedTo } (nextPc s))) ∧
      (∀ r, dataTarget s.ccb ea = .ccb r → r.access = .rw → (r = .ccbBase → v.extractLsb' 0 8 = 0#8) →
        exec (.st src op) s = .next ((s.setCcb (s.ccb.set r v)).setPc (nextPc s))) ∧
      (dataTarget s.ccb ea = .pcb →
        exec (.st src op) s = .next (State.setPc { s with pcbLog := s.pcbLog ++ [.write ea v] } (nextPc s)))

/-- `st` to a place the spec gives no meaning to is refused by name (decisions D12, D17, D18, D19, D27; log 19), and so are `ld` and `st`
with any register field above 7 in 16 bit mode, the target, the source or one of the address operand, which no 16 bit word
carries (R147, log 11). -/
def Obligations.LoadStoreRefusals : Prop :=
  (∀ (s : State) (f : BitVec 5) (op : AddrOperand), s.psr.il = false → (8 ≤ f.toNat ∨ ∃ g ∈ op.fields, 8 ≤ g.toNat) →
    exec (.ld f op) s = .refused .fieldNotIn16BitMode ∧ exec (.st f op) s = .refused .fieldNotIn16BitMode) ∧
  ∀ (s : State) (src : BitVec 5) (op : AddrOperand) (v ea : Word),
    readField s src = some v → effectiveAddress s op = some ea → dataForbidden s ea = false →
    (dataTarget s.ccb ea = .reserved → exec (.st src op) s = .refused .reservedCcbOffset) ∧
      (∀ r, dataTarget s.ccb ea = .ccb r → r.access = .readOnly →
        exec (.st src op) s = .refused .readOnlyCcbRegister) ∧
      (∀ r, dataTarget s.ccb ea = .ccb r → r.access = .status → exec (.st src op) s = .refused .statusCcbRegister) ∧
      (dataTarget s.ccb ea = .ccb .ccbBase → v.extractLsb' 0 8 ≠ 0#8 →
        exec (.st src op) s = .refused .ccbBaseNotAligned)

/-- The frame of `st` when it stores (from R161, R105; decision D1: cells are disjoint), with the address its meaning computes: every other data address reads as before, and all of them
do when the address is not ordinary memory; every register, flag and PSR keep their values, and every CCB register but the one
stored to. -/
def Obligations.StFrame : Prop :=
  ∀ (s t : State) (src : BitVec 5) (op : AddrOperand) (ea : Word),
    effectiveAddress s op = some ea → dataForbidden s ea = false → exec (.st src op) s = .next t →
    (∀ b, b ≠ ea → memRead t.mem b = memRead s.mem b) ∧
      (dataTarget s.ccb ea ≠ .memory → ∀ b, memRead t.mem b = memRead s.mem b) ∧
      (∀ q, dataTarget s.ccb ea ≠ .ccb q → t.ccb.get q = s.ccb.get q) ∧
      (dataTarget s.ccb ea ≠ .pcb → t.pcbLog = s.pcbLog) ∧
      t.r = s.r ∧ t.pr = s.pr ∧ t.pr31 = s.pr31 ∧ t.psr = s.psr ∧ t.spsr = s.spsr ∧ t.cr = s.cr ∧
      t.imem = s.imem ∧ t.intEntry = s.intEntry ∧ t.requests = s.requests ∧ t.copLog = s.copLog ∧ t.cops = s.cops ∧
      t.cfg = s.cfg ∧ t.draws = s.draws

/-- `ld` and `st` by the user to an address that is not allowed enter the exception handler with cause DataProtectionViolation, and do
nothing else (decision D14; log 18). -/
def Obligations.ForbiddenAccessTraps : Prop :=
  ∀ (s : State) (f : BitVec 5) (op : AddrOperand) (i : Fin 32) (ea : Word),
    ridx s.psr.il f = some i → effectiveAddress s op = some ea →
    s.psr.um = true → dataAllowed s.ccb ea = false →
    exec (.ld f op) s = .next (takeException .dataProtection s) ∧
      exec (.st f op) s = .next (takeException .dataProtection s)

/-! ### scall, retu, chrs, cop -/

/-- `scall` by the user: SPSR[7:0] takes PSR, PR31 the link address, PSR becomes SCALL_PSR with UM = 0 and the pc SYSTEM_ADDR; nothing
else changes but SPSR[31:8], which are free (from R170, R171; decisions D8, D9, D10). -/
def Obligations.ScallCompletes : Prop :=
  ∀ s : State, s.psr.um = true →
    ∃ t, exec .scall s = .next t ∧
      t.spsr.extractLsb' 0 8 = s.psr.bits ∧ t.spsr.extractLsb' 8 24 = s.freeWord.extractLsb' 0 24 ∧
      t.pr31 = s.pc + istep s.cfg s.psr.il ∧ t.psr = superPsr s.cfg.scallPsr ∧ t.psr.um = false ∧
      t.pc = s.ccb.systemAddr ∧
      t = { s with spsr := t.spsr, pr31 := t.pr31, psr := t.psr, pc := t.pc, draws := s.draws + 1 }

/-- `retu` by the super user: IE and IL from SPSR[4] and SPSR[3], RSWR = RSRD = 0, UM = 1, the pc from PR31; SPSR, PR31 and all else
unchanged (from R172; decision D7). -/
def Obligations.RetuCompletes : Prop :=
  ∀ s : State, s.psr.um = false →
    exec .retu s =
      .next { s with
        psr := { ie := s.spsr.getLsbD 4, il := s.spsr.getLsbD 3, rswr := false, rsrd := false, um := true }
        pc := s.pr31 }

/-- `scall` with UM = 0 and `retu` with UM = 1 have no meaning and are refused (decision D32; log 15). `chrs` by the user enters the
exception handler with cause PrivilegeViolation, the choice R175 leaves a model that continues (log 16). -/
def Obligations.SystemInstructionInWrongMode : Prop :=
  ∀ s : State,
    (s.psr.um = false → exec .scall s = .refused .scallBySuperUser) ∧
      (s.psr.um = true → exec .retu s = .refused .retuByUser) ∧
      (s.psr.um = true → ∀ rd wr, exec (.chrs rd wr) s = .next (takeException .privilege s))

/-- `chrs` by the super user sets RSRD and RSWR and advances the pc; IE, IL, UM and all else are unchanged (from R174; decisions D13,
D4). -/
def Obligations.ChrsCompletes : Prop :=
  ∀ (s : State) (rd wr : Bool), s.psr.um = false →
    exec (.chrs rd wr) s =
      .next { s with
        psr := { ie := s.psr.ie, il := s.psr.il, rswr := wr, rsrd := rd, um := s.psr.um }
        pc := s.pc + istep s.cfg s.psr.il }

/-- `cop n, w` to a coprocessor with a model attached: the coprocessor receives w at the register index in bits 5n+4 to 5n of
CREG_I_INDX, read at that time, and the pc advances; without a model it is refused (from R180, R181; decision D31; log 17). -/
def Obligations.CopCompletes : Prop :=
  ∀ (s : State) (n : BitVec 2) (w : Word),
    (s.cops.getLsbD n.toNat = true →
        ∃ e : CopEvent, e.n = n ∧ e.word = w ∧ e.index.toNat = s.ccb.cregIIndx.toNat / 32 ^ n.toNat % 32 ∧
          exec (.cop n w) s =
            .next { s with copLog := s.copLog ++ [e], pc := s.pc + istep s.cfg s.psr.il }) ∧
      (s.cops.getLsbD n.toNat = false → exec (.cop n w) s = .refused .noCoprocessorModel)

/-- The frame of `scall`, `retu`, `chrs` and `cop` (from R170, R172, R174, R180; logs 16, 17), whether they have their effect or raise: no memory, no general register but PR31 by
`scall`, no condition register, and no CCB register but the three EXCEPTION registers by a `chrs` that raises. -/
def Obligations.SystemFrame : Prop :=
  ∀ (s t : State) (i : Instr), (i = .scall ∨ i = .retu ∨ (∃ rd wr, i = .chrs rd wr) ∨ (∃ n w, i = .cop n w)) →
    exec i s = .next t →
    (∀ b, memRead t.mem b = memRead s.mem b) ∧ t.imem = s.imem ∧ t.storedTo = s.storedTo ∧
      t.r = s.r ∧ t.pr = s.pr ∧ (i ≠ .scall → t.pr31 = s.pr31 ∧ t.spsr = s.spsr ∧ t.draws = s.draws) ∧
      t.cr = s.cr ∧
      (∀ q : CcbReg, q ≠ .exceptionCs → q ≠ .exceptionPc → q ≠ .exceptionPsr → t.ccb.get q = s.ccb.get q) ∧
      ((∀ rd wr, i ≠ .chrs rd wr) → t.ccb = s.ccb) ∧
      t.intEntry = s.intEntry ∧ t.requests = s.requests ∧ t.pcbLog = s.pcbLog ∧
      ((∀ n w, i ≠ .cop n w) → t.copLog = s.copLog) ∧ t.cops = s.cops ∧ t.cfg = s.cfg

/-! ### Exceptions and interrupts -/

/-- Exception entry: the three EXCEPTION registers, PSR = EXC_PSR with UM = 0, the pc from EXCEP_ADDR, and nothing else (from R240;
decisions D14, D23; log 18). -/
def Obligations.ExceptionEntry : Prop :=
  ∀ (c : Cause) (s : State),
    let t := takeException c s
    t.ccb.get .exceptionCs = (excCode s.cfg c).setWidth 32 ∧ t.ccb.get .exceptionPc = s.pc ∧
      t.ccb.get .exceptionPsr = s.psr.bits.setWidth 32 ∧ t.psr = superPsr s.cfg.excPsr ∧ t.psr.um = false ∧
      t.pc = s.ccb.excepAddr ∧
      (∀ q : CcbReg, q ≠ .exceptionCs → q ≠ .exceptionPc → q ≠ .exceptionPsr → t.ccb.get q = s.ccb.get q) ∧
      t = { s with ccb := t.ccb, psr := t.psr, pc := t.pc }

/-- A user fetch from an address that is not allowed enters the exception handler with EXCEPTION_PC the fetch address, when no interrupt
can be taken (from R118, R240; decision D14). -/
def Obligations.ForbiddenFetchTraps : Prop :=
  ∀ s : State, s.intEntry = none → s.psr.ie = false → s.psr.um = true → instrAllowed s.ccb s.pc = false →
    ∃ t, step s = .next t ∧ EntersException s t .instrProtection ∧
      t.r = s.r ∧ t.pr = s.pr ∧ t.pr31 = s.pr31 ∧ t.spsr = s.spsr ∧ t.cr = s.cr ∧ t.mem = s.mem ∧ t.imem = s.imem

/-- R222: with IE = 0 no source is a candidate and none is taken, so the step runs an instruction; the reset state has IE = 0. -/
def Obligations.DisabledInterruptsAreNotTaken : Prop :=
  (∀ s : State, s.psr.ie = false →
    (∀ src, candidate s src = false) ∧ interruptChoice s = none ∧
      (s.intEntry = none → step s = runInstr (observe s))) ∧
    State.reset.psr.ie = false

/-- A source whose INT_MASK bit is 0 is not a candidate and is not taken (from R223); one whose bit is 1 is a candidate exactly when
interrupts are enabled and it requests (from R225). INT_MASK after reset is the parameter INT_MASK_RESET (R58); that it is
0xFFF or 0x000 is decision D6 and the model's choice (log 7). -/
def Obligations.MaskedSourceIsNotTaken : Prop :=
  (∀ (s : State) (src : Fin 12),
    (s.ccb.intMask.getLsbD src.val = false → candidate s src = false ∧ interruptChoice s ≠ some src) ∧
      (s.ccb.intMask.getLsbD src.val = true →
        (candidate s src = true ↔ s.psr.ie = true ∧ s.requests.getLsbD src.val = true))) ∧
    (∀ p : Params, (Ccb.launch p).intMask = if p.intMaskResetOnes then 0xFFF#12 else 0x000#12)

/-- What a step does about interrupts: either it takes a source that is a candidate and none of a better priority is, or it runs an
instruction; and where there is a candidate, some candidate of the best priority is on offer (from R225, R234; decisions
D21, D28). -/
def Obligations.TakenSourceHasBestPriority : Prop :=
  (∀ s : State, s.intEntry = none →
    (∃ src, candidate (observe s) src = true ∧
        (∀ y, candidate (observe s) y = true → interruptPriority s.ccb src ≤ interruptPriority s.ccb y) ∧
        step s = .next (takeInterrupt src (observe s))) ∨
      step s = runInstr (observe s)) ∧
    (∀ (s : State) (y : Fin 12), candidate s y = true → bestCandidates s ≠ []) ∧
    (∀ (s : State) (x : Fin 12), x ∈ bestCandidates s ↔
      candidate s x = true ∧ ∀ y, candidate s y = true → interruptPriority s.ccb x ≤ interruptPriority s.ccb y)

/-- R233: the priority of each source is a 4 bit field of COP_INT_PRI (sources 0 to 3) or EXT_INT_PRI (4 to 11); after reset every
source has priority 0. -/
def Obligations.PriorityFields : Prop :=
  (∀ (c : Ccb) (src : Fin 12),
    (src.val ≤ 3 → (interruptPriority c src).toNat = (c.get .copIntPri).toNat / 16 ^ src.val % 16) ∧
      (4 ≤ src.val → (interruptPriority c src).toNat = (c.get .extIntPri).toNat / 16 ^ (src.val - 4) % 16)) ∧
    (∀ (p : Params) (src : Fin 12), interruptPriority (Ccb.launch p) src = 0#4)

/-- The vector of source s is the CCB register at offset 02h + s (the table of R224 and its inference). -/
def Obligations.VectorRegisterOfSource : Prop :=
  ∀ (c : Ccb) (src : Fin 12),
    (CcbReg.ofOffset (BitVec.ofNat 8 (0x02 + src.val))).map c.get = some (interruptVector c src)

/-- Interrupt entry: the pc from the source's vector, IL and UM from its bits of INT_MODE_IL and INT_MODE_UM, both selectors the negation
of UM (from R235, R236; decisions D11, D22), general and condition registers and memories untouched; after it no step has a
meaning (R237, log 21). -/
def Obligations.InterruptEntry : Prop :=
  ∀ (src : Fin 12) (s : State),
    let t := takeInterrupt src s
    t.pc = interruptVector s.ccb src ∧
      t.psr.il = s.ccb.intModeIl.getLsbD src.val ∧ t.psr.um = s.ccb.intModeUm.getLsbD src.val ∧
      t.psr.rsrd = (!s.ccb.intModeUm.getLsbD src.val) ∧ t.psr.rswr = (!s.ccb.intModeUm.getLsbD src.val) ∧
      (∀ q : CcbReg, q ≠ .intServ → q ≠ .intPend → t.ccb.get q = s.ccb.get q) ∧
      t = { s with psr := t.psr, pc := t.pc, ccb := t.ccb, intEntry := t.intEntry, draws := s.draws + 1 } ∧
      step t = .refused .afterInterruptEntry

/-! ### The whole machine -/

/-- Every step keeps the invariant: SET 1 selected in user mode (R29), CCB_BASE aligned (R52), both memories canonical. -/
def Obligations.StepKeepsInvariant : Prop :=
  ∀ s t : State, Inv s → step s = .next t → Inv t

/-- No step changes the parameters, instruction memory or which coprocessors are attached. All three are choices of the model: the
parameters are an input of the step kept in the state (log 5), programs are placed from outside (log 1), and which coprocessors
are attached is fixed at the launch (log 17). With unified memory a store can change what is fetched (R125, D16); the model
shows that as a free word at the fetch (`fetchWord`, log 23) and not as a change of `imem`. -/
def Obligations.StepKeepsConfiguration : Prop :=
  ∀ s t : State, step s = .next t → t.cfg = s.cfg ∧ t.imem = s.imem ∧ t.cops = s.cops

/-- The events that change PSR are `retu`, `scall`, `chrs`, interrupt entry and exception entry (from R38). -/
def Obligations.PsrChangesOnlyByNamedEvents : Prop :=
  ∀ s t : State, step s = .next t →
    t.psr = s.psr ∨ (∃ src, TakesInterrupt s src) ∨ (∃ c, EntersException s t c) ∨
      Runs s .scall ∨ Runs s .retu ∨ (∃ rd wr, Runs s (.chrs rd wr))

/-- The mode transitions: into user mode only by `retu` or an interrupt whose INT_MODE_UM bit is 1, out of it only by `scall`, an exception
or an interrupt whose bit is 0 (from R247). -/
def Obligations.ModeTransitions : Prop :=
  ∀ s t : State, step s = .next t →
    (s.psr.um = false → t.psr.um = true →
        Runs s .retu ∨ ∃ src, TakesInterrupt s src ∧ s.ccb.intModeUm.getLsbD src.val = true) ∧
      (s.psr.um = true → t.psr.um = false →
        Runs s .scall ∨ (∃ c, EntersException s t c) ∨
          ∃ src, TakesInterrupt s src ∧ s.ccb.intModeUm.getLsbD src.val = false)

/-- The EXCEPTION registers keep their values until the next exception (the inference of R240). -/
def Obligations.ExceptionRegistersKeptUntilNextException : Prop :=
  ∀ s t : State, step s = .next t →
    (t.ccb.exceptionCs = s.ccb.exceptionCs ∧ t.ccb.exceptionPc = s.ccb.exceptionPc ∧
        t.ccb.exceptionPsr = s.ccb.exceptionPsr) ∨
      ∃ c, EntersException s t c

/-- Condition registers survive every instruction of the model and every step. For `scall`, `retu` and `chrs` this is from R194, for `ld`
and `st` the inference of R160 and R161. For `cop` it is the model's choice, since its flags are not stated (R180, log 17), and
for every step it holds because the flag writing classes are no instructions of the model (log 27, DESIGN CHOICE). -/
def Obligations.ConditionRegistersSurvive : Prop :=
  (∀ (i : Instr) (s t : State), exec i s = .next t → t.cr = s.cr) ∧ (∀ s t : State, step s = .next t → t.cr = s.cr)

/-- A user mode step changes SET 2 by `scall` alone, and then only with the saved PSR and the link address (from R26, under the invariant of
R29). -/
def Obligations.UserStepKeepsSet2 : Prop :=
  ∀ s t : State, Inv s → s.psr.um = true → step s = .next t →
    t.pr = s.pr ∧
      ((t.spsr = s.spsr ∧ t.pr31 = s.pr31) ∨
        (Runs s .scall ∧ t.spsr.extractLsb' 0 8 = s.psr.bits ∧ t.pr31 = s.pc + istep s.cfg s.psr.il))

/-- A user mode step learns nothing of SET 2: two states that differ in PR0 to PR28, SPSR and PR31 alone take steps with the same outcome
outside SET 2 (from R26, under the invariant of R29). -/
def Obligations.UserStepLearnsNothingOfSet2 : Prop :=
  ∀ (s : State) (pr : Vector Word 29) (spsr pr31 : Word), Inv s → s.psr.um = true →
    hideOutcome (step (withSet2 s pr spsr pr31)) = hideOutcome (step s)

/-- A user mode step writes no data address that is not allowed, reaches the PCB at allowed addresses only, and reads no memory cell that
is not allowed: from two states that differ only in cells that are not allowed it has the same outcome outside data memory, and
the allowed cells agree afterwards (from R110, R112, R113; the violation is D14, log 18). -/
def Obligations.UserStepStaysInAllowedMemory : Prop :=
  (∀ s t : State, s.psr.um = true → step s = .next t →
    (∀ a, dataAllowed s.ccb a = false → memRead t.mem a = memRead s.mem a) ∧
      (t.pcbLog = s.pcbLog ∨
        ∃ a, dataAllowed s.ccb a = true ∧
          (t.pcbLog = s.pcbLog ++ [.read a] ∨ ∃ v, t.pcbLog = s.pcbLog ++ [.write a v]))) ∧
    (∀ (s : State) (m : List (Nat × Word)), memWf s.mem = true → memWf m = true → s.psr.um = true →
      (∀ a, dataAllowed s.ccb a = true → memRead m a = memRead s.mem a) →
      mapNext hideMemory (step (withMemory s m)) = mapNext hideMemory (step s) ∧
        ∀ t t' : State, step s = .next t → step (withMemory s m) = .next t' →
          ∀ a, dataAllowed s.ccb a = true → memRead t'.mem a = memRead t.mem a)

/-- When the CCB window is protected from the user, no user mode step changes a configuration register (from R276, R112). -/
def Obligations.ProtectedCcbIsSafeFromUser : Prop :=
  ∀ s t : State, s.psr.um = true → (∀ a, inCcbWindow s.ccb a = true → dataAllowed s.ccb a = false) →
    step s = .next t → ∀ r : CcbReg, r.access = .rw → t.ccb.get r = s.ccb.get r

/-! ### Classes without mnemonic, and access times -/

/-- Compare instructions write all three flags of the selected condition register in 32 bit mode and of C0 in 16 bit mode, and nothing else
but the pc (from R190, R47; `Config.flagsCmp` is uninterpreted, the operand form is the model's choice; logs 27, 36). -/
def Obligations.CompareWritesSelectedFlags : Prop :=
  ∀ (s : State) (m : Nat) (k : Fin 8) (fa fb : BitVec 5) (a b : Word),
    readField s fa = some a → readField s fb = some b →
    ∃ t, compareClass m k fa fb s = .next t ∧
      t.cr[if s.psr.il then k else 0] = Config.flagsCmp m a b ∧
      (∀ j : Fin 8, j ≠ (if s.psr.il then k else 0) → t.cr[j] = s.cr[j]) ∧
      t = { s with cr := t.cr, pc := s.pc + istep s.cfg s.psr.il }

/-- Flag setting arithmetic writes its result to the target register and its flags to C0 in both word lengths, also when the target is
PSR (from R191; `Config.arithOp` and `Config.flagsOp` are uninterpreted, the operand form is the model's choice; logs 27, 36). -/
def Obligations.ArithmeticSavesFlagsToC0 : Prop :=
  ∀ (s : State) (o : Nat) (d fa fb : BitVec 5) (i : Fin 32) (a b : Word),
    ridx s.psr.il d = some i → readField s fa = some a → readField s fb = some b →
    ∃ t, arithClass o d fa fb s = .next t ∧
      t.cr[0] = Config.flagsOp o a b (Config.arithOp o a b) ∧ (∀ j : Fin 8, j ≠ 0 → t.cr[j] = s.cr[j]) ∧
      t.pc = s.pc + istep s.cfg s.psr.il ∧
      t = { writeReg s i (Config.arithOp o a b) with cr := t.cr, pc := t.pc }

/-- Conditional branches and conditionally executed instructions look at the selected condition register (C0 in 16 bit mode) and at nothing
else; when the condition fails only the pc advances (from R192, R193; `Config.holds` is uninterpreted; that 16 bit mode has conditional execution and that any body can be
conditional is the model's choice; logs 27, 35, 36). -/
def Obligations.ConditionalClasses : Prop :=
  ∀ (s : State) (cond : Nat) (k : Fin 8) (target : Word) (body : State → Host.Outcome State Fault Refusal),
    let holds := Config.holds cond s.cr[if s.psr.il then k else 0]
    branchClass cond k target s = .next { s with pc := if holds then target else s.pc + istep s.cfg s.psr.il } ∧
      conditionalClass cond k body s =
        (if holds then body s else .next { s with pc := s.pc + istep s.cfg s.psr.il })

/-- A link goes to R31 or PR31 as RSWR selects and is read from R31 or PR31 as RSRD selects (decision D25, log 27). -/
def Obligations.LinkFollowsSelectors : Prop :=
  ∀ (s : State) (link : Word),
    (s.psr.rswr = false → writeLink link s = { s with r := s.r.set 31 link }) ∧
      (s.psr.rswr = true → writeLink link s = { s with pr31 := link }) ∧
      (s.psr.rsrd = false → readLink s = s.r[31]) ∧ (s.psr.rsrd = true → readLink s = s.pr31)

/-- R284: an access takes one basic cycle plus its class's field of WAIT_STATES; after reset sixteen. -/
def Obligations.AccessCycles : Prop :=
  (∀ c : Ccb,
    accessCycles c .coprocessor = 1 + c.waitStates.toNat / 256 ∧
      accessCycles c .data = 1 + c.waitStates.toNat / 16 % 16 ∧
      accessCycles c .instruction = 1 + c.waitStates.toNat % 16) ∧
    (∀ (p : Params) (k : AccessClass), accessCycles (Ccb.launch p) k = 16)
end

