-- ==== Sys2Proof/Laws/State.lean ====
section
/-! SUPPORT. What each update of the state does to each field: one lemma per field per update, true by rfl. A later proof
cites these (they are simp lemmas) and unfolds no record update. -/

namespace Sys2Proof.Machine

/-! ### setPc -/

@[simp] theorem State.setPc_r (s : State) (a : Word) :
    (s.setPc a).r = s.r := rfl
@[simp] theorem State.setPc_pr (s : State) (a : Word) :
    (s.setPc a).pr = s.pr := rfl
@[simp] theorem State.setPc_pr31 (s : State) (a : Word) :
    (s.setPc a).pr31 = s.pr31 := rfl
@[simp] theorem State.setPc_psr (s : State) (a : Word) :
    (s.setPc a).psr = s.psr := rfl
@[simp] theorem State.setPc_spsr (s : State) (a : Word) :
    (s.setPc a).spsr = s.spsr := rfl
@[simp] theorem State.setPc_cr (s : State) (a : Word) :
    (s.setPc a).cr = s.cr := rfl
@[simp] theorem State.setPc_pc (s : State) (a : Word) :
    (s.setPc a).pc = a := rfl
@[simp] theorem State.setPc_ccb (s : State) (a : Word) :
    (s.setPc a).ccb = s.ccb := rfl
@[simp] theorem State.setPc_mem (s : State) (a : Word) :
    (s.setPc a).mem = s.mem := rfl
@[simp] theorem State.setPc_imem (s : State) (a : Word) :
    (s.setPc a).imem = s.imem := rfl
@[simp] theorem State.setPc_storedTo (s : State) (a : Word) :
    (s.setPc a).storedTo = s.storedTo := rfl
@[simp] theorem State.setPc_intEntry (s : State) (a : Word) :
    (s.setPc a).intEntry = s.intEntry := rfl
@[simp] theorem State.setPc_requests (s : State) (a : Word) :
    (s.setPc a).requests = s.requests := rfl
@[simp] theorem State.setPc_pcbLog (s : State) (a : Word) :
    (s.setPc a).pcbLog = s.pcbLog := rfl
@[simp] theorem State.setPc_copLog (s : State) (a : Word) :
    (s.setPc a).copLog = s.copLog := rfl
@[simp] theorem State.setPc_cops (s : State) (a : Word) :
    (s.setPc a).cops = s.cops := rfl
@[simp] theorem State.setPc_cfg (s : State) (a : Word) :
    (s.setPc a).cfg = s.cfg := rfl
@[simp] theorem State.setPc_draws (s : State) (a : Word) :
    (s.setPc a).draws = s.draws := rfl

/-! ### setPsr -/

@[simp] theorem State.setPsr_r (s : State) (p : Psr) :
    (s.setPsr p).r = s.r := rfl
@[simp] theorem State.setPsr_pr (s : State) (p : Psr) :
    (s.setPsr p).pr = s.pr := rfl
@[simp] theorem State.setPsr_pr31 (s : State) (p : Psr) :
    (s.setPsr p).pr31 = s.pr31 := rfl
@[simp] theorem State.setPsr_psr (s : State) (p : Psr) :
    (s.setPsr p).psr = p := rfl
@[simp] theorem State.setPsr_spsr (s : State) (p : Psr) :
    (s.setPsr p).spsr = s.spsr := rfl
@[simp] theorem State.setPsr_cr (s : State) (p : Psr) :
    (s.setPsr p).cr = s.cr := rfl
@[simp] theorem State.setPsr_pc (s : State) (p : Psr) :
    (s.setPsr p).pc = s.pc := rfl
@[simp] theorem State.setPsr_ccb (s : State) (p : Psr) :
    (s.setPsr p).ccb = s.ccb := rfl
@[simp] theorem State.setPsr_mem (s : State) (p : Psr) :
    (s.setPsr p).mem = s.mem := rfl
@[simp] theorem State.setPsr_imem (s : State) (p : Psr) :
    (s.setPsr p).imem = s.imem := rfl
@[simp] theorem State.setPsr_storedTo (s : State) (p : Psr) :
    (s.setPsr p).storedTo = s.storedTo := rfl
@[simp] theorem State.setPsr_intEntry (s : State) (p : Psr) :
    (s.setPsr p).intEntry = s.intEntry := rfl
@[simp] theorem State.setPsr_requests (s : State) (p : Psr) :
    (s.setPsr p).requests = s.requests := rfl
@[simp] theorem State.setPsr_pcbLog (s : State) (p : Psr) :
    (s.setPsr p).pcbLog = s.pcbLog := rfl
@[simp] theorem State.setPsr_copLog (s : State) (p : Psr) :
    (s.setPsr p).copLog = s.copLog := rfl
@[simp] theorem State.setPsr_cops (s : State) (p : Psr) :
    (s.setPsr p).cops = s.cops := rfl
@[simp] theorem State.setPsr_cfg (s : State) (p : Psr) :
    (s.setPsr p).cfg = s.cfg := rfl
@[simp] theorem State.setPsr_draws (s : State) (p : Psr) :
    (s.setPsr p).draws = s.draws := rfl

/-! ### setCcb -/

@[simp] theorem State.setCcb_r (s : State) (c : Ccb) :
    (s.setCcb c).r = s.r := rfl
@[simp] theorem State.setCcb_pr (s : State) (c : Ccb) :
    (s.setCcb c).pr = s.pr := rfl
@[simp] theorem State.setCcb_pr31 (s : State) (c : Ccb) :
    (s.setCcb c).pr31 = s.pr31 := rfl
@[simp] theorem State.setCcb_psr (s : State) (c : Ccb) :
    (s.setCcb c).psr = s.psr := rfl
@[simp] theorem State.setCcb_spsr (s : State) (c : Ccb) :
    (s.setCcb c).spsr = s.spsr := rfl
@[simp] theorem State.setCcb_cr (s : State) (c : Ccb) :
    (s.setCcb c).cr = s.cr := rfl
@[simp] theorem State.setCcb_pc (s : State) (c : Ccb) :
    (s.setCcb c).pc = s.pc := rfl
@[simp] theorem State.setCcb_ccb (s : State) (c : Ccb) :
    (s.setCcb c).ccb = c := rfl
@[simp] theorem State.setCcb_mem (s : State) (c : Ccb) :
    (s.setCcb c).mem = s.mem := rfl
@[simp] theorem State.setCcb_imem (s : State) (c : Ccb) :
    (s.setCcb c).imem = s.imem := rfl
@[simp] theorem State.setCcb_storedTo (s : State) (c : Ccb) :
    (s.setCcb c).storedTo = s.storedTo := rfl
@[simp] theorem State.setCcb_intEntry (s : State) (c : Ccb) :
    (s.setCcb c).intEntry = s.intEntry := rfl
@[simp] theorem State.setCcb_requests (s : State) (c : Ccb) :
    (s.setCcb c).requests = s.requests := rfl
@[simp] theorem State.setCcb_pcbLog (s : State) (c : Ccb) :
    (s.setCcb c).pcbLog = s.pcbLog := rfl
@[simp] theorem State.setCcb_copLog (s : State) (c : Ccb) :
    (s.setCcb c).copLog = s.copLog := rfl
@[simp] theorem State.setCcb_cops (s : State) (c : Ccb) :
    (s.setCcb c).cops = s.cops := rfl
@[simp] theorem State.setCcb_cfg (s : State) (c : Ccb) :
    (s.setCcb c).cfg = s.cfg := rfl
@[simp] theorem State.setCcb_draws (s : State) (c : Ccb) :
    (s.setCcb c).draws = s.draws := rfl

/-! ### drawn -/

@[simp] theorem State.drawn_r (s : State) :
    s.drawn.r = s.r := rfl
@[simp] theorem State.drawn_pr (s : State) :
    s.drawn.pr = s.pr := rfl
@[simp] theorem State.drawn_pr31 (s : State) :
    s.drawn.pr31 = s.pr31 := rfl
@[simp] theorem State.drawn_psr (s : State) :
    s.drawn.psr = s.psr := rfl
@[simp] theorem State.drawn_spsr (s : State) :
    s.drawn.spsr = s.spsr := rfl
@[simp] theorem State.drawn_cr (s : State) :
    s.drawn.cr = s.cr := rfl
@[simp] theorem State.drawn_pc (s : State) :
    s.drawn.pc = s.pc := rfl
@[simp] theorem State.drawn_ccb (s : State) :
    s.drawn.ccb = s.ccb := rfl
@[simp] theorem State.drawn_mem (s : State) :
    s.drawn.mem = s.mem := rfl
@[simp] theorem State.drawn_imem (s : State) :
    s.drawn.imem = s.imem := rfl
@[simp] theorem State.drawn_storedTo (s : State) :
    s.drawn.storedTo = s.storedTo := rfl
@[simp] theorem State.drawn_intEntry (s : State) :
    s.drawn.intEntry = s.intEntry := rfl
@[simp] theorem State.drawn_requests (s : State) :
    s.drawn.requests = s.requests := rfl
@[simp] theorem State.drawn_pcbLog (s : State) :
    s.drawn.pcbLog = s.pcbLog := rfl
@[simp] theorem State.drawn_copLog (s : State) :
    s.drawn.copLog = s.copLog := rfl
@[simp] theorem State.drawn_cops (s : State) :
    s.drawn.cops = s.cops := rfl
@[simp] theorem State.drawn_cfg (s : State) :
    s.drawn.cfg = s.cfg := rfl
@[simp] theorem State.drawn_draws (s : State) :
    s.drawn.draws = s.draws + 1 := rfl

/-! ### advance -/

@[simp] theorem State.advance_r (s : State) :
    s.advance.r = s.r := rfl
@[simp] theorem State.advance_pr (s : State) :
    s.advance.pr = s.pr := rfl
@[simp] theorem State.advance_pr31 (s : State) :
    s.advance.pr31 = s.pr31 := rfl
@[simp] theorem State.advance_psr (s : State) :
    s.advance.psr = s.psr := rfl
@[simp] theorem State.advance_spsr (s : State) :
    s.advance.spsr = s.spsr := rfl
@[simp] theorem State.advance_cr (s : State) :
    s.advance.cr = s.cr := rfl
@[simp] theorem State.advance_pc (s : State) :
    s.advance.pc = nextPc s := rfl
@[simp] theorem State.advance_ccb (s : State) :
    s.advance.ccb = s.ccb := rfl
@[simp] theorem State.advance_mem (s : State) :
    s.advance.mem = s.mem := rfl
@[simp] theorem State.advance_imem (s : State) :
    s.advance.imem = s.imem := rfl
@[simp] theorem State.advance_storedTo (s : State) :
    s.advance.storedTo = s.storedTo := rfl
@[simp] theorem State.advance_intEntry (s : State) :
    s.advance.intEntry = s.intEntry := rfl
@[simp] theorem State.advance_requests (s : State) :
    s.advance.requests = s.requests := rfl
@[simp] theorem State.advance_pcbLog (s : State) :
    s.advance.pcbLog = s.pcbLog := rfl
@[simp] theorem State.advance_copLog (s : State) :
    s.advance.copLog = s.copLog := rfl
@[simp] theorem State.advance_cops (s : State) :
    s.advance.cops = s.cops := rfl
@[simp] theorem State.advance_cfg (s : State) :
    s.advance.cfg = s.cfg := rfl
@[simp] theorem State.advance_draws (s : State) :
    s.advance.draws = s.draws := rfl

/-! ### storeCell -/

@[simp] theorem State.storeCell_r (s : State) (a v : Word) :
    (s.storeCell a v).r = s.r := rfl
@[simp] theorem State.storeCell_pr (s : State) (a v : Word) :
    (s.storeCell a v).pr = s.pr := rfl
@[simp] theorem State.storeCell_pr31 (s : State) (a v : Word) :
    (s.storeCell a v).pr31 = s.pr31 := rfl
@[simp] theorem State.storeCell_psr (s : State) (a v : Word) :
    (s.storeCell a v).psr = s.psr := rfl
@[simp] theorem State.storeCell_spsr (s : State) (a v : Word) :
    (s.storeCell a v).spsr = s.spsr := rfl
@[simp] theorem State.storeCell_cr (s : State) (a v : Word) :
    (s.storeCell a v).cr = s.cr := rfl
@[simp] theorem State.storeCell_pc (s : State) (a v : Word) :
    (s.storeCell a v).pc = s.pc := rfl
@[simp] theorem State.storeCell_ccb (s : State) (a v : Word) :
    (s.storeCell a v).ccb = s.ccb := rfl
@[simp] theorem State.storeCell_mem (s : State) (a v : Word) :
    (s.storeCell a v).mem = memWrite s.mem a v := rfl
@[simp] theorem State.storeCell_imem (s : State) (a v : Word) :
    (s.storeCell a v).imem = s.imem := rfl
@[simp] theorem State.storeCell_storedTo (s : State) (a v : Word) :
    (s.storeCell a v).storedTo = addrInsert a.toNat s.storedTo := rfl
@[simp] theorem State.storeCell_intEntry (s : State) (a v : Word) :
    (s.storeCell a v).intEntry = s.intEntry := rfl
@[simp] theorem State.storeCell_requests (s : State) (a v : Word) :
    (s.storeCell a v).requests = s.requests := rfl
@[simp] theorem State.storeCell_pcbLog (s : State) (a v : Word) :
    (s.storeCell a v).pcbLog = s.pcbLog := rfl
@[simp] theorem State.storeCell_copLog (s : State) (a v : Word) :
    (s.storeCell a v).copLog = s.copLog := rfl
@[simp] theorem State.storeCell_cops (s : State) (a v : Word) :
    (s.storeCell a v).cops = s.cops := rfl
@[simp] theorem State.storeCell_cfg (s : State) (a v : Word) :
    (s.storeCell a v).cfg = s.cfg := rfl
@[simp] theorem State.storeCell_draws (s : State) (a v : Word) :
    (s.storeCell a v).draws = s.draws := rfl

/-! ### recordCop -/

@[simp] theorem State.recordCop_r (s : State) (e : CopEvent) :
    (s.recordCop e).r = s.r := rfl
@[simp] theorem State.recordCop_pr (s : State) (e : CopEvent) :
    (s.recordCop e).pr = s.pr := rfl
@[simp] theorem State.recordCop_pr31 (s : State) (e : CopEvent) :
    (s.recordCop e).pr31 = s.pr31 := rfl
@[simp] theorem State.recordCop_psr (s : State) (e : CopEvent) :
    (s.recordCop e).psr = s.psr := rfl
@[simp] theorem State.recordCop_spsr (s : State) (e : CopEvent) :
    (s.recordCop e).spsr = s.spsr := rfl
@[simp] theorem State.recordCop_cr (s : State) (e : CopEvent) :
    (s.recordCop e).cr = s.cr := rfl
@[simp] theorem State.recordCop_pc (s : State) (e : CopEvent) :
    (s.recordCop e).pc = s.pc := rfl
@[simp] theorem State.recordCop_ccb (s : State) (e : CopEvent) :
    (s.recordCop e).ccb = s.ccb := rfl
@[simp] theorem State.recordCop_mem (s : State) (e : CopEvent) :
    (s.recordCop e).mem = s.mem := rfl
@[simp] theorem State.recordCop_imem (s : State) (e : CopEvent) :
    (s.recordCop e).imem = s.imem := rfl
@[simp] theorem State.recordCop_storedTo (s : State) (e : CopEvent) :
    (s.recordCop e).storedTo = s.storedTo := rfl
@[simp] theorem State.recordCop_intEntry (s : State) (e : CopEvent) :
    (s.recordCop e).intEntry = s.intEntry := rfl
@[simp] theorem State.recordCop_requests (s : State) (e : CopEvent) :
    (s.recordCop e).requests = s.requests := rfl
@[simp] theorem State.recordCop_pcbLog (s : State) (e : CopEvent) :
    (s.recordCop e).pcbLog = s.pcbLog := rfl
@[simp] theorem State.recordCop_copLog (s : State) (e : CopEvent) :
    (s.recordCop e).copLog = s.copLog ++ [e] := rfl
@[simp] theorem State.recordCop_cops (s : State) (e : CopEvent) :
    (s.recordCop e).cops = s.cops := rfl
@[simp] theorem State.recordCop_cfg (s : State) (e : CopEvent) :
    (s.recordCop e).cfg = s.cfg := rfl
@[simp] theorem State.recordCop_draws (s : State) (e : CopEvent) :
    (s.recordCop e).draws = s.draws := rfl

/-! ### takeException -/

@[simp] theorem takeException_r (c : Cause) (s : State) :
    (takeException c s).r = s.r := rfl
@[simp] theorem takeException_pr (c : Cause) (s : State) :
    (takeException c s).pr = s.pr := rfl
@[simp] theorem takeException_pr31 (c : Cause) (s : State) :
    (takeException c s).pr31 = s.pr31 := rfl
@[simp] theorem takeException_psr (c : Cause) (s : State) :
    (takeException c s).psr = superPsr s.cfg.excPsr := rfl
@[simp] theorem takeException_spsr (c : Cause) (s : State) :
    (takeException c s).spsr = s.spsr := rfl
@[simp] theorem takeException_cr (c : Cause) (s : State) :
    (takeException c s).cr = s.cr := rfl
@[simp] theorem takeException_pc (c : Cause) (s : State) :
    (takeException c s).pc = s.ccb.excepAddr := rfl
@[simp] theorem takeException_ccb (c : Cause) (s : State) :
    (takeException c s).ccb = s.ccb.recordException (excCode s.cfg c) s.pc s.psr.bits := rfl
@[simp] theorem takeException_mem (c : Cause) (s : State) :
    (takeException c s).mem = s.mem := rfl
@[simp] theorem takeException_imem (c : Cause) (s : State) :
    (takeException c s).imem = s.imem := rfl
@[simp] theorem takeException_storedTo (c : Cause) (s : State) :
    (takeException c s).storedTo = s.storedTo := rfl
@[simp] theorem takeException_intEntry (c : Cause) (s : State) :
    (takeException c s).intEntry = s.intEntry := rfl
@[simp] theorem takeException_requests (c : Cause) (s : State) :
    (takeException c s).requests = s.requests := rfl
@[simp] theorem takeException_pcbLog (c : Cause) (s : State) :
    (takeException c s).pcbLog = s.pcbLog := rfl
@[simp] theorem takeException_copLog (c : Cause) (s : State) :
    (takeException c s).copLog = s.copLog := rfl
@[simp] theorem takeException_cops (c : Cause) (s : State) :
    (takeException c s).cops = s.cops := rfl
@[simp] theorem takeException_cfg (c : Cause) (s : State) :
    (takeException c s).cfg = s.cfg := rfl
@[simp] theorem takeException_draws (c : Cause) (s : State) :
    (takeException c s).draws = s.draws := rfl

/-! ### returnToUser -/

@[simp] theorem returnToUser_r (s : State) :
    (returnToUser s).r = s.r := rfl
@[simp] theorem returnToUser_pr (s : State) :
    (returnToUser s).pr = s.pr := rfl
@[simp] theorem returnToUser_pr31 (s : State) :
    (returnToUser s).pr31 = s.pr31 := rfl
@[simp] theorem returnToUser_psr (s : State) :
    (returnToUser s).psr = { ie := s.spsr.getLsbD 4, il := s.spsr.getLsbD 3, rswr := false, rsrd := false, um := true } := rfl
@[simp] theorem returnToUser_spsr (s : State) :
    (returnToUser s).spsr = s.spsr := rfl
@[simp] theorem returnToUser_cr (s : State) :
    (returnToUser s).cr = s.cr := rfl
@[simp] theorem returnToUser_pc (s : State) :
    (returnToUser s).pc = s.pr31 := rfl
@[simp] theorem returnToUser_ccb (s : State) :
    (returnToUser s).ccb = s.ccb := rfl
@[simp] theorem returnToUser_mem (s : State) :
    (returnToUser s).mem = s.mem := rfl
@[simp] theorem returnToUser_imem (s : State) :
    (returnToUser s).imem = s.imem := rfl
@[simp] theorem returnToUser_storedTo (s : State) :
    (returnToUser s).storedTo = s.storedTo := rfl
@[simp] theorem returnToUser_intEntry (s : State) :
    (returnToUser s).intEntry = s.intEntry := rfl
@[simp] theorem returnToUser_requests (s : State) :
    (returnToUser s).requests = s.requests := rfl
@[simp] theorem returnToUser_pcbLog (s : State) :
    (returnToUser s).pcbLog = s.pcbLog := rfl
@[simp] theorem returnToUser_copLog (s : State) :
    (returnToUser s).copLog = s.copLog := rfl
@[simp] theorem returnToUser_cops (s : State) :
    (returnToUser s).cops = s.cops := rfl
@[simp] theorem returnToUser_cfg (s : State) :
    (returnToUser s).cfg = s.cfg := rfl
@[simp] theorem returnToUser_draws (s : State) :
    (returnToUser s).draws = s.draws := rfl

/-! ### takeInterrupt -/

@[simp] theorem takeInterrupt_r (src : Fin 12) (s : State) :
    (takeInterrupt src s).r = s.r := rfl
@[simp] theorem takeInterrupt_pr (src : Fin 12) (s : State) :
    (takeInterrupt src s).pr = s.pr := rfl
@[simp] theorem takeInterrupt_pr31 (src : Fin 12) (s : State) :
    (takeInterrupt src s).pr31 = s.pr31 := rfl
@[simp] theorem takeInterrupt_psr (src : Fin 12) (s : State) :
    (takeInterrupt src s).psr = interruptPsr s src := rfl
@[simp] theorem takeInterrupt_spsr (src : Fin 12) (s : State) :
    (takeInterrupt src s).spsr = s.spsr := rfl
@[simp] theorem takeInterrupt_cr (src : Fin 12) (s : State) :
    (takeInterrupt src s).cr = s.cr := rfl
@[simp] theorem takeInterrupt_pc (src : Fin 12) (s : State) :
    (takeInterrupt src s).pc = interruptVector s.ccb src := rfl
@[simp] theorem takeInterrupt_ccb (src : Fin 12) (s : State) :
    (takeInterrupt src s).ccb = s.ccb.freeInterruptStatus s.freeWord := rfl
@[simp] theorem takeInterrupt_mem (src : Fin 12) (s : State) :
    (takeInterrupt src s).mem = s.mem := rfl
@[simp] theorem takeInterrupt_imem (src : Fin 12) (s : State) :
    (takeInterrupt src s).imem = s.imem := rfl
@[simp] theorem takeInterrupt_storedTo (src : Fin 12) (s : State) :
    (takeInterrupt src s).storedTo = s.storedTo := rfl
@[simp] theorem takeInterrupt_intEntry (src : Fin 12) (s : State) :
    (takeInterrupt src s).intEntry = some { source := src, returnPc := s.pc, returnPsr := s.psr } := rfl
@[simp] theorem takeInterrupt_requests (src : Fin 12) (s : State) :
    (takeInterrupt src s).requests = s.requests := rfl
@[simp] theorem takeInterrupt_pcbLog (src : Fin 12) (s : State) :
    (takeInterrupt src s).pcbLog = s.pcbLog := rfl
@[simp] theorem takeInterrupt_copLog (src : Fin 12) (s : State) :
    (takeInterrupt src s).copLog = s.copLog := rfl
@[simp] theorem takeInterrupt_cops (src : Fin 12) (s : State) :
    (takeInterrupt src s).cops = s.cops := rfl
@[simp] theorem takeInterrupt_cfg (src : Fin 12) (s : State) :
    (takeInterrupt src s).cfg = s.cfg := rfl
@[simp] theorem takeInterrupt_draws (src : Fin 12) (s : State) :
    (takeInterrupt src s).draws = s.draws + 1 := rfl

/-! ### observe -/

@[simp] theorem observe_r (s : State) :
    (observe s).r = s.r := rfl
@[simp] theorem observe_pr (s : State) :
    (observe s).pr = s.pr := rfl
@[simp] theorem observe_pr31 (s : State) :
    (observe s).pr31 = s.pr31 := rfl
@[simp] theorem observe_psr (s : State) :
    (observe s).psr = s.psr := rfl
@[simp] theorem observe_spsr (s : State) :
    (observe s).spsr = s.spsr := rfl
@[simp] theorem observe_cr (s : State) :
    (observe s).cr = s.cr := rfl
@[simp] theorem observe_pc (s : State) :
    (observe s).pc = s.pc := rfl
@[simp] theorem observe_ccb (s : State) :
    (observe s).ccb = s.ccb.observed s.draws := rfl
@[simp] theorem observe_mem (s : State) :
    (observe s).mem = s.mem := rfl
@[simp] theorem observe_imem (s : State) :
    (observe s).imem = s.imem := rfl
@[simp] theorem observe_storedTo (s : State) :
    (observe s).storedTo = s.storedTo := rfl
@[simp] theorem observe_intEntry (s : State) :
    (observe s).intEntry = s.intEntry := rfl
@[simp] theorem observe_requests (s : State) :
    (observe s).requests = Config.requestLines s.draws := rfl
@[simp] theorem observe_pcbLog (s : State) :
    (observe s).pcbLog = s.pcbLog := rfl
@[simp] theorem observe_copLog (s : State) :
    (observe s).copLog = s.copLog := rfl
@[simp] theorem observe_cops (s : State) :
    (observe s).cops = s.cops := rfl
@[simp] theorem observe_cfg (s : State) :
    (observe s).cfg = s.cfg := rfl
@[simp] theorem observe_draws (s : State) :
    (observe s).draws = s.draws + 1 := rfl

/-! ### writeCr -/

@[simp] theorem writeCr_r (s : State) (k : Fin 8) (f : CondReg) :
    (writeCr s k f).r = s.r := rfl
@[simp] theorem writeCr_pr (s : State) (k : Fin 8) (f : CondReg) :
    (writeCr s k f).pr = s.pr := rfl
@[simp] theorem writeCr_pr31 (s : State) (k : Fin 8) (f : CondReg) :
    (writeCr s k f).pr31 = s.pr31 := rfl
@[simp] theorem writeCr_psr (s : State) (k : Fin 8) (f : CondReg) :
    (writeCr s k f).psr = s.psr := rfl
@[simp] theorem writeCr_spsr (s : State) (k : Fin 8) (f : CondReg) :
    (writeCr s k f).spsr = s.spsr := rfl
@[simp] theorem writeCr_cr (s : State) (k : Fin 8) (f : CondReg) :
    (writeCr s k f).cr = s.cr.set (crIndex s.psr.il k) f := rfl
@[simp] theorem writeCr_pc (s : State) (k : Fin 8) (f : CondReg) :
    (writeCr s k f).pc = s.pc := rfl
@[simp] theorem writeCr_ccb (s : State) (k : Fin 8) (f : CondReg) :
    (writeCr s k f).ccb = s.ccb := rfl
@[simp] theorem writeCr_mem (s : State) (k : Fin 8) (f : CondReg) :
    (writeCr s k f).mem = s.mem := rfl
@[simp] theorem writeCr_imem (s : State) (k : Fin 8) (f : CondReg) :
    (writeCr s k f).imem = s.imem := rfl
@[simp] theorem writeCr_storedTo (s : State) (k : Fin 8) (f : CondReg) :
    (writeCr s k f).storedTo = s.storedTo := rfl
@[simp] theorem writeCr_intEntry (s : State) (k : Fin 8) (f : CondReg) :
    (writeCr s k f).intEntry = s.intEntry := rfl
@[simp] theorem writeCr_requests (s : State) (k : Fin 8) (f : CondReg) :
    (writeCr s k f).requests = s.requests := rfl
@[simp] theorem writeCr_pcbLog (s : State) (k : Fin 8) (f : CondReg) :
    (writeCr s k f).pcbLog = s.pcbLog := rfl
@[simp] theorem writeCr_copLog (s : State) (k : Fin 8) (f : CondReg) :
    (writeCr s k f).copLog = s.copLog := rfl
@[simp] theorem writeCr_cops (s : State) (k : Fin 8) (f : CondReg) :
    (writeCr s k f).cops = s.cops := rfl
@[simp] theorem writeCr_cfg (s : State) (k : Fin 8) (f : CondReg) :
    (writeCr s k f).cfg = s.cfg := rfl
@[simp] theorem writeCr_draws (s : State) (k : Fin 8) (f : CondReg) :
    (writeCr s k f).draws = s.draws := rfl

/-! ### placeAtPc -/

@[simp] theorem placeAtPc_r (s : State) (w : CodeWord) :
    (placeAtPc s w).r = s.r := rfl
@[simp] theorem placeAtPc_pr (s : State) (w : CodeWord) :
    (placeAtPc s w).pr = s.pr := rfl
@[simp] theorem placeAtPc_pr31 (s : State) (w : CodeWord) :
    (placeAtPc s w).pr31 = s.pr31 := rfl
@[simp] theorem placeAtPc_psr (s : State) (w : CodeWord) :
    (placeAtPc s w).psr = s.psr := rfl
@[simp] theorem placeAtPc_spsr (s : State) (w : CodeWord) :
    (placeAtPc s w).spsr = s.spsr := rfl
@[simp] theorem placeAtPc_cr (s : State) (w : CodeWord) :
    (placeAtPc s w).cr = s.cr := rfl
@[simp] theorem placeAtPc_pc (s : State) (w : CodeWord) :
    (placeAtPc s w).pc = s.pc := rfl
@[simp] theorem placeAtPc_ccb (s : State) (w : CodeWord) :
    (placeAtPc s w).ccb = s.ccb := rfl
@[simp] theorem placeAtPc_mem (s : State) (w : CodeWord) :
    (placeAtPc s w).mem = s.mem := rfl
@[simp] theorem placeAtPc_imem (s : State) (w : CodeWord) :
    (placeAtPc s w).imem = codeWrite s.imem s.pc w := rfl
@[simp] theorem placeAtPc_storedTo (s : State) (w : CodeWord) :
    (placeAtPc s w).storedTo = s.storedTo.filter (fun a => !decide (a = s.pc.toNat)) := rfl
@[simp] theorem placeAtPc_intEntry (s : State) (w : CodeWord) :
    (placeAtPc s w).intEntry = s.intEntry := rfl
@[simp] theorem placeAtPc_requests (s : State) (w : CodeWord) :
    (placeAtPc s w).requests = s.requests := rfl
@[simp] theorem placeAtPc_pcbLog (s : State) (w : CodeWord) :
    (placeAtPc s w).pcbLog = s.pcbLog := rfl
@[simp] theorem placeAtPc_copLog (s : State) (w : CodeWord) :
    (placeAtPc s w).copLog = s.copLog := rfl
@[simp] theorem placeAtPc_cops (s : State) (w : CodeWord) :
    (placeAtPc s w).cops = s.cops := rfl
@[simp] theorem placeAtPc_cfg (s : State) (w : CodeWord) :
    (placeAtPc s w).cfg = s.cfg := rfl
@[simp] theorem placeAtPc_draws (s : State) (w : CodeWord) :
    (placeAtPc s w).draws = s.draws := rfl

/-! ### withMemory -/

@[simp] theorem withMemory_r (s : State) (m : List (Nat × Word)) :
    (withMemory s m).r = s.r := rfl
@[simp] theorem withMemory_pr (s : State) (m : List (Nat × Word)) :
    (withMemory s m).pr = s.pr := rfl
@[simp] theorem withMemory_pr31 (s : State) (m : List (Nat × Word)) :
    (withMemory s m).pr31 = s.pr31 := rfl
@[simp] theorem withMemory_psr (s : State) (m : List (Nat × Word)) :
    (withMemory s m).psr = s.psr := rfl
@[simp] theorem withMemory_spsr (s : State) (m : List (Nat × Word)) :
    (withMemory s m).spsr = s.spsr := rfl
@[simp] theorem withMemory_cr (s : State) (m : List (Nat × Word)) :
    (withMemory s m).cr = s.cr := rfl
@[simp] theorem withMemory_pc (s : State) (m : List (Nat × Word)) :
    (withMemory s m).pc = s.pc := rfl
@[simp] theorem withMemory_ccb (s : State) (m : List (Nat × Word)) :
    (withMemory s m).ccb = s.ccb := rfl
@[simp] theorem withMemory_mem (s : State) (m : List (Nat × Word)) :
    (withMemory s m).mem = m := rfl
@[simp] theorem withMemory_imem (s : State) (m : List (Nat × Word)) :
    (withMemory s m).imem = s.imem := rfl
@[simp] theorem withMemory_storedTo (s : State) (m : List (Nat × Word)) :
    (withMemory s m).storedTo = s.storedTo := rfl
@[simp] theorem withMemory_intEntry (s : State) (m : List (Nat × Word)) :
    (withMemory s m).intEntry = s.intEntry := rfl
@[simp] theorem withMemory_requests (s : State) (m : List (Nat × Word)) :
    (withMemory s m).requests = s.requests := rfl
@[simp] theorem withMemory_pcbLog (s : State) (m : List (Nat × Word)) :
    (withMemory s m).pcbLog = s.pcbLog := rfl
@[simp] theorem withMemory_copLog (s : State) (m : List (Nat × Word)) :
    (withMemory s m).copLog = s.copLog := rfl
@[simp] theorem withMemory_cops (s : State) (m : List (Nat × Word)) :
    (withMemory s m).cops = s.cops := rfl
@[simp] theorem withMemory_cfg (s : State) (m : List (Nat × Word)) :
    (withMemory s m).cfg = s.cfg := rfl
@[simp] theorem withMemory_draws (s : State) (m : List (Nat × Word)) :
    (withMemory s m).draws = s.draws := rfl

/-! ### withSet2 -/

@[simp] theorem withSet2_r (s : State) (pr : Vector Word 29) (spsr pr31 : Word) :
    (withSet2 s pr spsr pr31).r = s.r := rfl
@[simp] theorem withSet2_pr (s : State) (pr : Vector Word 29) (spsr pr31 : Word) :
    (withSet2 s pr spsr pr31).pr = pr := rfl
@[simp] theorem withSet2_pr31 (s : State) (pr : Vector Word 29) (spsr pr31 : Word) :
    (withSet2 s pr spsr pr31).pr31 = pr31 := rfl
@[simp] theorem withSet2_psr (s : State) (pr : Vector Word 29) (spsr pr31 : Word) :
    (withSet2 s pr spsr pr31).psr = s.psr := rfl
@[simp] theorem withSet2_spsr (s : State) (pr : Vector Word 29) (spsr pr31 : Word) :
    (withSet2 s pr spsr pr31).spsr = spsr := rfl
@[simp] theorem withSet2_cr (s : State) (pr : Vector Word 29) (spsr pr31 : Word) :
    (withSet2 s pr spsr pr31).cr = s.cr := rfl
@[simp] theorem withSet2_pc (s : State) (pr : Vector Word 29) (spsr pr31 : Word) :
    (withSet2 s pr spsr pr31).pc = s.pc := rfl
@[simp] theorem withSet2_ccb (s : State) (pr : Vector Word 29) (spsr pr31 : Word) :
    (withSet2 s pr spsr pr31).ccb = s.ccb := rfl
@[simp] theorem withSet2_mem (s : State) (pr : Vector Word 29) (spsr pr31 : Word) :
    (withSet2 s pr spsr pr31).mem = s.mem := rfl
@[simp] theorem withSet2_imem (s : State) (pr : Vector Word 29) (spsr pr31 : Word) :
    (withSet2 s pr spsr pr31).imem = s.imem := rfl
@[simp] theorem withSet2_storedTo (s : State) (pr : Vector Word 29) (spsr pr31 : Word) :
    (withSet2 s pr spsr pr31).storedTo = s.storedTo := rfl
@[simp] theorem withSet2_intEntry (s : State) (pr : Vector Word 29) (spsr pr31 : Word) :
    (withSet2 s pr spsr pr31).intEntry = s.intEntry := rfl
@[simp] theorem withSet2_requests (s : State) (pr : Vector Word 29) (spsr pr31 : Word) :
    (withSet2 s pr spsr pr31).requests = s.requests := rfl
@[simp] theorem withSet2_pcbLog (s : State) (pr : Vector Word 29) (spsr pr31 : Word) :
    (withSet2 s pr spsr pr31).pcbLog = s.pcbLog := rfl
@[simp] theorem withSet2_copLog (s : State) (pr : Vector Word 29) (spsr pr31 : Word) :
    (withSet2 s pr spsr pr31).copLog = s.copLog := rfl
@[simp] theorem withSet2_cops (s : State) (pr : Vector Word 29) (spsr pr31 : Word) :
    (withSet2 s pr spsr pr31).cops = s.cops := rfl
@[simp] theorem withSet2_cfg (s : State) (pr : Vector Word 29) (spsr pr31 : Word) :
    (withSet2 s pr spsr pr31).cfg = s.cfg := rfl
@[simp] theorem withSet2_draws (s : State) (pr : Vector Word 29) (spsr pr31 : Word) :
    (withSet2 s pr spsr pr31).draws = s.draws := rfl

end Sys2Proof.Machine
end

