-- ==== Sys2Proof/Laws/Ccb.lean ====
section
/-! SUPPORT. The laws of the CCB: offsets, reading after writing, and what a write leaves alone. -/

namespace Sys2Proof.Machine

/-- The register at the offset of `r` is `r`. -/
theorem CcbReg.ofOffset_offset (r : CcbReg) : CcbReg.ofOffset (BitVec.ofNat 8 r.offset) = some r := by
  cases r with
  | copIntVec n => revert n; decide
  | extIntVec n => revert n; decide
  | _ => rfl

/-- Offsets 27h to ffh have no register. -/
theorem CcbReg.ofOffset_reserved (k : BitVec 8) (h : 0x26 < k.toNat) : CcbReg.ofOffset k = none := by
  simp only [CcbReg.ofOffset, List.getElem?_eq_none_iff]
  exact h

/-- A register found at an offset has that offset. -/
theorem CcbReg.offset_of_ofOffset (k : BitVec 8) (r : CcbReg) (h : CcbReg.ofOffset k = some r) : r.offset = k.toNat := by
  have key : ∀ j : Fin 39, (CcbReg.all[j.val]?).map CcbReg.offset = some j.val := by decide
  by_cases hk : k.toNat < 39
  · have := key ⟨k.toNat, hk⟩
    simp only [CcbReg.ofOffset] at h
    simp only [h, Option.map_some, Option.some.injEq] at this
    exact this
  · rw [CcbReg.ofOffset_reserved k (by omega)] at h
    cases h

/-- Reading the register just written gives its low bits, zero extended (R51). -/
theorem Ccb.get_set_same (c : Ccb) (r : CcbReg) (v : Word) :
    (c.set r v).get r = (v.setWidth r.bits).setWidth 32 := by
  cases r <;> simp [Ccb.set, Ccb.get, CcbReg.bits]

/-- Writing one register leaves every other alone. -/
theorem Ccb.get_set_ne (c : Ccb) (r q : CcbReg) (v : Word) (h : q ≠ r) : (c.set r v).get q = c.get q := by
  cases r with
  | copIntVec n =>
    cases q with
    | copIntVec m =>
      have hnm : n.val ≠ m.val := fun e => h (by rw [Fin.ext e])
      simp [Ccb.set, Ccb.get, Vector.getElem_set_ne, hnm]
    | _ => rfl
  | extIntVec n =>
    cases q with
    | extIntVec m =>
      have hnm : n.val ≠ m.val := fun e => h (by rw [Fin.ext e])
      simp [Ccb.set, Ccb.get, Vector.getElem_set_ne, hnm]
    | _ => rfl
  | _ => cases q <;> first | rfl | exact absurd rfl h

/-- What an accepted `CCBWrite` does (R109). -/
theorem ccbWrite_ok (c c' : Ccb) (r : CcbReg) (v : Word) (h : ccbWrite c r v = .ok c') :
    r.access = .rw ∧ (r = .ccbBase → v.extractLsb' 0 8 = 0#8) ∧ c' = c.set r v := by
  unfold ccbWrite at h
  split at h
  · cases h
  · cases h
  · rename_i hr
    split at h
    · cases h
    · rename_i hb
      cases h
      exact ⟨hr, fun e => by simpa [e] using hb, rfl⟩

/-- Only a write to CCB_BASE changes CCB_BASE. -/
theorem Ccb.set_ccbBase (c : Ccb) (r : CcbReg) (v : Word) :
    (c.set r v).ccbBase = if r = .ccbBase then v else c.ccbBase := by
  cases r <;> rfl

/-- A write to a register that is not an EXCEPTION register leaves those three alone. -/
theorem Ccb.set_exception (c : Ccb) (r : CcbReg) (v : Word) (h : r.access = .rw) :
    (c.set r v).exceptionCs = c.exceptionCs ∧ (c.set r v).exceptionPc = c.exceptionPc ∧
      (c.set r v).exceptionPsr = c.exceptionPsr := by
  cases r <;> first | exact ⟨rfl, rfl, rfl⟩ | cases h

/-! ### Updates the hardware makes: no protection or window register is touched -/

@[simp] theorem dataAllowed_observed (c : Ccb) (n : Nat) (a : Word) : dataAllowed (c.observed n) a = dataAllowed c a := rfl
@[simp] theorem instrAllowed_observed (c : Ccb) (n : Nat) (a : Word) : instrAllowed (c.observed n) a = instrAllowed c a := rfl
@[simp] theorem inCcbWindow_observed (c : Ccb) (n : Nat) (a : Word) : inCcbWindow (c.observed n) a = inCcbWindow c a := rfl
@[simp] theorem dataTarget_observed (c : Ccb) (n : Nat) (a : Word) : dataTarget (c.observed n) a = dataTarget c a := rfl
@[simp] theorem interruptPriority_observed (c : Ccb) (n : Nat) (src : Fin 12) :
    interruptPriority (c.observed n) src = interruptPriority c src := rfl

/-- Outside agents move INT_PEND and the two timer values only. -/
theorem Ccb.get_observed (c : Ccb) (n : Nat) (q : CcbReg) (h0 : q ≠ .intPend) (h1 : q ≠ .tmr0Cnt) (h2 : q ≠ .tmr1Cnt) :
    (c.observed n).get q = c.get q := by
  cases q <;> first | rfl | contradiction

/-- Exception entry writes the three EXCEPTION registers only. -/
theorem Ccb.get_recordException (c : Ccb) (code : BitVec 8) (pc : Word) (psr : BitVec 8) (q : CcbReg)
    (h0 : q ≠ .exceptionCs) (h1 : q ≠ .exceptionPc) (h2 : q ≠ .exceptionPsr) :
    (c.recordException code pc psr).get q = c.get q := by
  cases q <;> first | rfl | contradiction

/-- Interrupt entry changes INT_SERV and INT_PEND only. -/
theorem Ccb.get_freeInterruptStatus (c : Ccb) (w : Word) (q : CcbReg) (h0 : q ≠ .intServ) (h1 : q ≠ .intPend) :
    (c.freeInterruptStatus w).get q = c.get q := by
  cases q <;> first | rfl | contradiction

end Sys2Proof.Machine
end

