-- ==== Sys2Proof/Laws/Cells.lean ====
section
/-! SUPPORT. The laws of the sparse memories: a write is read back and leaves every other address alone, and every memory
operation keeps the canonical form. -/

namespace Sys2Proof.Machine

/-- An address below every listed one is unlisted. -/
theorem cellsRead_of_rising {α : Type} (d : α) (m : List (Nat × α)) (lo a : Nat)
    (h : risingFrom lo (m.map Prod.fst) = true) (ha : a < lo) : cellsRead d m a = d := by
  induction m generalizing lo with
  | nil => rfl
  | cons e t ih =>
    obtain ⟨k, v⟩ := e
    simp only [List.map_cons, risingFrom, Bool.and_eq_true, decide_eq_true_eq] at h
    have hk : ¬ k = a := by omega
    simpa [cellsRead, hk] using ih (k + 1) h.2 (by omega)

/-- Reading after a write: the value written at its address, the old content everywhere else. -/
theorem cellsRead_write {α : Type} [DecidableEq α] (d : α) (m : List (Nat × α)) (lo a b : Nat) (v : α)
    (h : risingFrom lo (m.map Prod.fst) = true) :
    cellsRead d (cellsWrite d m a v) b = if b = a then v else cellsRead d m b := by
  induction m generalizing lo with
  | nil =>
    by_cases hb : b = a
    · by_cases hv : v = d <;> simp [cellsWrite, cellsRead, hv, hb]
    · have hab : ¬ a = b := fun h => hb h.symm
      by_cases hv : v = d <;> simp [cellsWrite, cellsRead, hv, hb, hab]
  | cons e t ih =>
    obtain ⟨k, x⟩ := e
    simp only [List.map_cons, risingFrom, Bool.and_eq_true, decide_eq_true_eq] at h
    have hlow : ∀ c, c < k + 1 → cellsRead d t c = d := fun c hc => cellsRead_of_rising d t (k + 1) c h.2 hc
    unfold cellsWrite
    split
    · rename_i hak
      split
      · rename_i hv
        by_cases hb : b = a
        · have hkb : ¬ k = b := by omega
          simp [cellsRead, hb, hv, hlow a (by omega), show ¬ k = a by omega]
        · simp [hb]
      · by_cases hb : b = a
        · simp [cellsRead, hb]
        · simp [cellsRead, hb, show ¬ a = b from fun h => hb h.symm]
    · split
      · rename_i _ hak
        subst hak
        split
        · rename_i hv
          by_cases hb : b = a
          · simp [hb, hv, hlow a (by omega)]
          · simp [cellsRead, hb, show ¬ a = b from fun h => hb h.symm]
        · by_cases hb : b = a
          · simp [cellsRead, hb]
          · simp [cellsRead, hb, show ¬ a = b from fun h => hb h.symm]
      · rename_i hlt hne
        by_cases hkb : k = b
        · have hb : ¬ b = a := by omega
          simp [cellsRead, hkb, hb]
        · simpa [cellsRead, hkb] using ih (k + 1) h.2

/-- A write leaves every other address alone, whatever the form of the list. -/
theorem cellsRead_write_ne {α : Type} [DecidableEq α] (d : α) (m : List (Nat × α)) (a b : Nat) (v : α) (hb : b ≠ a) :
    cellsRead d (cellsWrite d m a v) b = cellsRead d m b := by
  have hab : ¬ a = b := fun h => hb h.symm
  induction m with
  | nil => by_cases hv : v = d <;> simp [cellsWrite, cellsRead, hv, hab]
  | cons e t ih =>
    obtain ⟨k, x⟩ := e
    unfold cellsWrite
    split
    · split
      · rfl
      · simp [cellsRead, hab]
    · split
      · rename_i _ hak
        subst hak
        split <;> simp [cellsRead, hab]
      · simp only [cellsRead, ih]

/-- A write keeps the addresses strictly rising. -/
theorem risingFrom_cellsWrite {α : Type} [DecidableEq α] (d : α) (m : List (Nat × α)) (lo a : Nat) (v : α)
    (h : risingFrom lo (m.map Prod.fst) = true) (hlo : lo ≤ a) (ha : a < 2 ^ 32) :
    risingFrom lo ((cellsWrite d m a v).map Prod.fst) = true := by
  induction m generalizing lo with
  | nil =>
    by_cases hv : v = d
    · simp [cellsWrite, hv, risingFrom]
    · simp only [cellsWrite, hv, if_false, List.map_cons, List.map_nil, risingFrom, Bool.and_true, Bool.and_eq_true,
        decide_eq_true_eq]
      exact ⟨hlo, ha⟩
  | cons e t ih =>
    obtain ⟨k, x⟩ := e
    have h' := h
    simp only [List.map_cons, risingFrom, Bool.and_eq_true, decide_eq_true_eq] at h
    have weaken : ∀ (l : List Nat) (p q : Nat), p ≤ q → risingFrom q l = true → risingFrom p l = true := by
      intro l p q hpq hl
      cases l with
      | nil => rfl
      | cons c l =>
        simp only [risingFrom, Bool.and_eq_true, decide_eq_true_eq] at hl ⊢
        exact ⟨⟨by omega, hl.1.2⟩, hl.2⟩
    unfold cellsWrite
    split
    · split
      · exact h'
      · simp only [List.map_cons, risingFrom, Bool.and_eq_true, decide_eq_true_eq]
        exact ⟨⟨hlo, ha⟩, ⟨by omega, h.1.2⟩, h.2⟩
    · split
      · rename_i hak
        subst hak
        split
        · exact weaken _ _ _ (by omega) h.2
        · simp only [List.map_cons, risingFrom, Bool.and_eq_true, decide_eq_true_eq]
          exact ⟨⟨hlo, ha⟩, h.2⟩
      · simp only [List.map_cons, risingFrom, Bool.and_eq_true, decide_eq_true_eq]
        exact ⟨h.1, ih (k + 1) h.2 (by omega)⟩

/-- A write keeps every entry different from what an unlisted address reads as. -/
theorem all_ne_cellsWrite {α : Type} [DecidableEq α] (d : α) (m : List (Nat × α)) (a : Nat) (v : α)
    (h : m.all (fun e => decide (e.2 ≠ d)) = true) :
    (cellsWrite d m a v).all (fun e => decide (e.2 ≠ d)) = true := by
  induction m with
  | nil => by_cases hv : v = d <;> simp [cellsWrite, hv]
  | cons e t ih =>
    obtain ⟨k, x⟩ := e
    have h' := h
    simp only [List.all_cons, Bool.and_eq_true] at h
    unfold cellsWrite
    split
    · split
      · exact h'
      · rename_i hv
        simp only [List.all_cons, Bool.and_eq_true]
        exact ⟨by simpa using hv, h⟩
    · split
      · split
        · exact h.2
        · rename_i hv
          simp only [List.all_cons, Bool.and_eq_true]
          exact ⟨by simpa using hv, h.2⟩
      · simp only [List.all_cons, Bool.and_eq_true]
        exact ⟨h.1, ih h.2⟩

/-- A write at a 32 bit address keeps the canonical form. -/
theorem cellsWf_write {α : Type} [DecidableEq α] (d : α) (m : List (Nat × α)) (a : Nat) (v : α)
    (h : cellsWf d m = true) (ha : a < 2 ^ 32) : cellsWf d (cellsWrite d m a v) = true := by
  simp only [cellsWf, Bool.and_eq_true] at h ⊢
  exact ⟨risingFrom_cellsWrite d m 0 a v h.1 (Nat.zero_le a) ha, all_ne_cellsWrite d m a v h.2⟩

/-- `MemWrite` keeps data memory canonical. -/
theorem memWf_memWrite (m : List (Nat × Word)) (a v : Word) (h : memWf m = true) : memWf (memWrite m a v) = true :=
  cellsWf_write _ m a.toNat v h a.isLt

/-- Placing a code word keeps instruction memory canonical. -/
theorem codeWf_codeWrite (m : List (Nat × CodeWord)) (a : Word) (w : CodeWord) (h : codeWf m = true) :
    codeWf (codeWrite m a w) = true :=
  cellsWf_write _ m a.toNat w h a.isLt

/-- `MemRead` after `MemWrite`. -/
theorem memRead_memWrite (m : List (Nat × Word)) (a b v : Word) (h : memWf m = true) :
    memRead (memWrite m a v) b = if b = a then v else memRead m b := by
  have hr : risingFrom 0 (m.map Prod.fst) = true := by
    simp only [memWf, cellsWf, Bool.and_eq_true] at h
    exact h.1
  simp only [memRead, memWrite, cellsRead_write _ m 0 a.toNat b.toNat v hr, BitVec.toNat_inj]

/-- `MemWrite` leaves every other address alone. -/
theorem memRead_memWrite_ne (m : List (Nat × Word)) (a b v : Word) (h : b ≠ a) :
    memRead (memWrite m a v) b = memRead m b :=
  cellsRead_write_ne _ m a.toNat b.toNat v (fun e => h (BitVec.eq_of_toNat_eq e))

/-- Reading the code word just placed, and any other. -/
theorem codeRead_codeWrite (m : List (Nat × CodeWord)) (a b : Word) (w : CodeWord) (h : codeWf m = true) :
    codeRead (codeWrite m a w) b = if b = a then w else codeRead m b := by
  have hr : risingFrom 0 (m.map Prod.fst) = true := by
    simp only [codeWf, cellsWf, Bool.and_eq_true] at h
    exact h.1
  simp only [codeRead, codeWrite, cellsRead_write _ m 0 a.toNat b.toNat w hr, BitVec.toNat_inj]

/-- Noting an address keeps the list strictly rising. -/
theorem risingFrom_addrInsert (l : List Nat) (lo a : Nat) (h : risingFrom lo l = true) (hlo : lo ≤ a)
    (ha : a < 2 ^ 32) : risingFrom lo (addrInsert a l) = true := by
  induction l generalizing lo with
  | nil =>
    simp only [addrInsert, risingFrom, Bool.and_true, Bool.and_eq_true, decide_eq_true_eq]
    exact ⟨hlo, ha⟩
  | cons k t ih =>
    have h' := h
    simp only [risingFrom, Bool.and_eq_true, decide_eq_true_eq] at h
    unfold addrInsert
    split
    · simp only [risingFrom, Bool.and_eq_true, decide_eq_true_eq]
      exact ⟨⟨hlo, ha⟩, ⟨by omega, h.1.2⟩, h.2⟩
    · split
      · exact h'
      · simp only [risingFrom, Bool.and_eq_true, decide_eq_true_eq]
        exact ⟨h.1, ih (k + 1) h.2 (by omega)⟩

/-- An address just noted is listed, and no other is added. -/
theorem mem_addrInsert (l : List Nat) (a b : Nat) : b ∈ addrInsert a l ↔ b = a ∨ b ∈ l := by
  induction l with
  | nil => simp [addrInsert]
  | cons k t ih =>
    unfold addrInsert
    split
    · simp
    · split
      · rename_i h
        subst h
        simp
      · simp [ih]
        tauto

end Sys2Proof.Machine
end

