-- ==== Sys2Proof/Laws/Registers.lean ====
section
/-! SUPPORT. What writing a register through the selector does: exactly one of five cases (R28), and what it leaves alone. -/

namespace Sys2Proof.Machine

/-- Everything a write to SET 2 can do. -/
theorem writeSet2_cases (s : State) (i : Fin 32) (v : Word) :
    (∃ h : i.val < 29, writeSet2 s i v = { s with pr := s.pr.set i.val v }) ∨
      (i.val = 29 ∧ writeSet2 s i v = s) ∨
      (i.val = 30 ∧ writeSet2 s i v = { s with spsr := v }) ∨
      (i.val = 31 ∧ writeSet2 s i v = { s with pr31 := v }) := by
  unfold writeSet2
  split
  · rename_i h
    exact .inl ⟨h, rfl⟩
  · split
    · rename_i h
      exact .inr (.inl ⟨h, rfl⟩)
    · split
      · rename_i h
        exact .inr (.inr (.inl ⟨h, rfl⟩))
      · have := i.isLt
        exact .inr (.inr (.inr ⟨by omega, rfl⟩))

/-- Everything a register write can do: it changes only `r`, `pr`, `spsr` and `pr31`. -/
theorem writeReg_eq (s : State) (i : Fin 32) (v : Word) :
    writeReg s i v =
      { s with
        r := (writeReg s i v).r
        pr := (writeReg s i v).pr
        spsr := (writeReg s i v).spsr
        pr31 := (writeReg s i v).pr31 } := by
  unfold writeReg
  split
  · rcases writeSet2_cases s i v with ⟨_, h⟩ | ⟨_, h⟩ | ⟨_, h⟩ | ⟨_, h⟩ <;> rw [h]
  · rfl

@[simp] theorem writeReg_psr (s : State) (i : Fin 32) (v : Word) : (writeReg s i v).psr = s.psr := by
  rw [writeReg_eq]
@[simp] theorem writeReg_cr (s : State) (i : Fin 32) (v : Word) : (writeReg s i v).cr = s.cr := by
  rw [writeReg_eq]
@[simp] theorem writeReg_pc (s : State) (i : Fin 32) (v : Word) : (writeReg s i v).pc = s.pc := by
  rw [writeReg_eq]
@[simp] theorem writeReg_ccb (s : State) (i : Fin 32) (v : Word) : (writeReg s i v).ccb = s.ccb := by
  rw [writeReg_eq]
@[simp] theorem writeReg_mem (s : State) (i : Fin 32) (v : Word) : (writeReg s i v).mem = s.mem := by
  rw [writeReg_eq]
@[simp] theorem writeReg_imem (s : State) (i : Fin 32) (v : Word) : (writeReg s i v).imem = s.imem := by
  rw [writeReg_eq]
@[simp] theorem writeReg_storedTo (s : State) (i : Fin 32) (v : Word) : (writeReg s i v).storedTo = s.storedTo := by
  rw [writeReg_eq]
@[simp] theorem writeReg_intEntry (s : State) (i : Fin 32) (v : Word) : (writeReg s i v).intEntry = s.intEntry := by
  rw [writeReg_eq]
@[simp] theorem writeReg_requests (s : State) (i : Fin 32) (v : Word) : (writeReg s i v).requests = s.requests := by
  rw [writeReg_eq]
@[simp] theorem writeReg_pcbLog (s : State) (i : Fin 32) (v : Word) : (writeReg s i v).pcbLog = s.pcbLog := by
  rw [writeReg_eq]
@[simp] theorem writeReg_copLog (s : State) (i : Fin 32) (v : Word) : (writeReg s i v).copLog = s.copLog := by
  rw [writeReg_eq]
@[simp] theorem writeReg_cops (s : State) (i : Fin 32) (v : Word) : (writeReg s i v).cops = s.cops := by
  rw [writeReg_eq]
@[simp] theorem writeReg_cfg (s : State) (i : Fin 32) (v : Word) : (writeReg s i v).cfg = s.cfg := by
  rw [writeReg_eq]
@[simp] theorem writeReg_draws (s : State) (i : Fin 32) (v : Word) : (writeReg s i v).draws = s.draws := by
  rw [writeReg_eq]

/-- With RSWR = 0 only SET 1 is written. -/
theorem writeReg_set1 (s : State) (i : Fin 32) (v : Word) (h : s.psr.rswr = false) :
    writeReg s i v = { s with r := s.r.set i v } := by
  simp [writeReg, h]

/-- With RSWR = 1 SET 1 is left alone. -/
theorem writeReg_r_of_rswr (s : State) (i : Fin 32) (v : Word) (h : s.psr.rswr = true) : (writeReg s i v).r = s.r := by
  simp only [writeReg, h, if_true]
  rcases writeSet2_cases s i v with ⟨_, e⟩ | ⟨_, e⟩ | ⟨_, e⟩ | ⟨_, e⟩ <;> rw [e]

/-- With RSRD = 0 only SET 1 is read. -/
theorem readReg_set1 (s : State) (i : Fin 32) (h : s.psr.rsrd = false) : readReg s i = s.r[i] := by
  simp [readReg, h]

end Sys2Proof.Machine
end

