-- ==== Sys2Proof/Laws/Access.lean ====
section
/-! SUPPORT. What the data access path can do: a read changes only the free value counter and the PCB log; a write, if it is
accepted, does one of three things (R104, R105). -/

namespace Sys2Proof.Machine

/-- A read changes only `draws` and `pcbLog`. -/
theorem dataReadState_eq (s : State) (a : Word) :
    dataReadState s a = { s with draws := (dataReadState s a).draws, pcbLog := (dataReadState s a).pcbLog } := by
  unfold dataReadState
  split <;> rfl

@[simp] theorem dataReadState_r (s : State) (a : Word) : (dataReadState s a).r = s.r := by rw [dataReadState_eq]
@[simp] theorem dataReadState_pr (s : State) (a : Word) : (dataReadState s a).pr = s.pr := by rw [dataReadState_eq]
@[simp] theorem dataReadState_pr31 (s : State) (a : Word) : (dataReadState s a).pr31 = s.pr31 := by
  rw [dataReadState_eq]
@[simp] theorem dataReadState_psr (s : State) (a : Word) : (dataReadState s a).psr = s.psr := by rw [dataReadState_eq]
@[simp] theorem dataReadState_spsr (s : State) (a : Word) : (dataReadState s a).spsr = s.spsr := by
  rw [dataReadState_eq]
@[simp] theorem dataReadState_cr (s : State) (a : Word) : (dataReadState s a).cr = s.cr := by rw [dataReadState_eq]
@[simp] theorem dataReadState_pc (s : State) (a : Word) : (dataReadState s a).pc = s.pc := by rw [dataReadState_eq]
@[simp] theorem dataReadState_ccb (s : State) (a : Word) : (dataReadState s a).ccb = s.ccb := by rw [dataReadState_eq]
@[simp] theorem dataReadState_mem (s : State) (a : Word) : (dataReadState s a).mem = s.mem := by rw [dataReadState_eq]
@[simp] theorem dataReadState_imem (s : State) (a : Word) : (dataReadState s a).imem = s.imem := by
  rw [dataReadState_eq]
@[simp] theorem dataReadState_storedTo (s : State) (a : Word) : (dataReadState s a).storedTo = s.storedTo := by
  rw [dataReadState_eq]
@[simp] theorem dataReadState_intEntry (s : State) (a : Word) : (dataReadState s a).intEntry = s.intEntry := by
  rw [dataReadState_eq]
@[simp] theorem dataReadState_requests (s : State) (a : Word) : (dataReadState s a).requests = s.requests := by
  rw [dataReadState_eq]
@[simp] theorem dataReadState_copLog (s : State) (a : Word) : (dataReadState s a).copLog = s.copLog := by
  rw [dataReadState_eq]
@[simp] theorem dataReadState_cops (s : State) (a : Word) : (dataReadState s a).cops = s.cops := by
  rw [dataReadState_eq]
@[simp] theorem dataReadState_cfg (s : State) (a : Word) : (dataReadState s a).cfg = s.cfg := by rw [dataReadState_eq]

/-- Everything an accepted `DataWrite` can do (R105). -/
theorem dataWrite_cases (s t : State) (a v : Word) (h : dataWrite s a v = .ok t) :
    (∃ r, dataTarget s.ccb a = .ccb r ∧ r.access = .rw ∧ (r = .ccbBase → v.extractLsb' 0 8 = 0#8) ∧
        t = s.setCcb (s.ccb.set r v)) ∨
      (dataTarget s.ccb a = .pcb ∧ t = { s with pcbLog := s.pcbLog ++ [.write a v] }) ∨
      (dataTarget s.ccb a = .memory ∧ t = s.storeCell a v) := by
  unfold dataWrite at h
  split at h
  · rename_i r hr
    split at h
    · rename_i c hc
      obtain ⟨h1, h2, h3⟩ := ccbWrite_ok _ _ _ _ hc
      cases h
      exact .inl ⟨r, hr, h1, h2, by rw [h3]⟩
    · cases h
  · cases h
  · rename_i hp
    cases h
    exact .inr (.inl ⟨hp, rfl⟩)
  · rename_i hm
    cases h
    exact .inr (.inr ⟨hm, rfl⟩)

/-- A register write leaves data memory out of account. -/
theorem writeReg_withMemory (s : State) (m : List (Nat × Word)) (i : Fin 32) (v : Word) :
    writeReg (withMemory s m) i v = withMemory (writeReg s i v) m := by
  unfold writeReg
  cases h : s.psr.rswr
  · simp [h, withMemory]
  · simp only [withMemory_psr, h, if_true]
    unfold writeSet2
    split
    · rfl
    · split
      · rfl
      · split <;> rfl

/-- Register operands leave data memory out of account. -/
@[simp] theorem readFields_withMemory (s : State) (m : List (Nat × Word)) (fs : List (BitVec 5)) :
    readFields (withMemory s m) fs = readFields s fs := by
  induction fs with
  | nil => rfl
  | cons f fs ih =>
    have : readField (withMemory s m) f = readField s f := rfl
    simp only [readFields, this, ih]

/-- The effective address leaves data memory out of account. -/
@[simp] theorem effectiveAddress_withMemory (s : State) (m : List (Nat × Word)) (op : AddrOperand) :
    effectiveAddress (withMemory s m) op = effectiveAddress s op := by
  cases op <;> simp [effectiveAddress]

/-- A register field above 7 of the address operand has no effective address in 16 bit mode (R147). -/
theorem effectiveAddress_none (s : State) (op : AddrOperand) (hil : s.psr.il = false)
    (h : ∃ g ∈ op.fields, 8 ≤ g.toNat) : effectiveAddress s op = none := by
  cases op with
  | given ea => obtain ⟨g, hg, _⟩ := h; cases hg
  | formed fs rest =>
    have : readFields s fs = none := by
      obtain ⟨g, hg, h8⟩ := h
      change g ∈ fs at hg
      induction fs with
      | nil => cases hg
      | cons x xs ih =>
        unfold readFields
        rcases List.mem_cons.1 hg with rfl | hg
        · have : readField s g = none := by simp [readField, hil, ridx, show ¬ g.toNat < 8 by omega]
          rw [this]
        · rw [ih hg]
          cases readField s x <;> rfl
    simp [effectiveAddress, this]

/-- A CCB register is reached only inside the CCB window. -/
theorem inCcbWindow_of_target (c : Ccb) (a : Word) (r : CcbReg) (h : dataTarget c a = .ccb r) :
    inCcbWindow c a = true := by
  unfold dataTarget at h
  split at h
  · assumption
  · split at h <;> cases h

end Sys2Proof.Machine
end

