-- ==== Sys2Proof/Laws/Exec.lean ====
section
/-! SUPPORT. What each instruction and each step can do when it answers a next state: one inversion lemma per meaning and one for
the step, which later proofs cite instead of unfolding the machine. -/

namespace Sys2Proof.Machine

/-- `ld` answers a next state in two ways: the data protection exception, or the load. -/
theorem execLd_next (d : BitVec 5) (op : AddrOperand) (s t : State) (h : execLd d op s = .next t) :
    ∃ i ea, ridx s.psr.il d = some i ∧ effectiveAddress s op = some ea ∧
      ((dataForbidden s ea = true ∧ t = takeException .dataProtection s) ∨
        (dataForbidden s ea = false ∧ t = (writeReg (dataReadState s ea) i (dataReadValue s ea)).advance)) := by
  unfold execLd at h
  split at h
  · rename_i i ea hi he
    refine ⟨i, ea, hi, he, ?_⟩
    split at h
    · rename_i hf
      cases h
      exact .inl ⟨hf, rfl⟩
    · rename_i hf
      cases h
      exact .inr ⟨by simpa using hf, rfl⟩
  · cases h

/-- `st` answers a next state in two ways: the data protection exception, or an accepted write. -/
theorem execSt_next (src : BitVec 5) (op : AddrOperand) (s t : State) (h : execSt src op s = .next t) :
    ∃ v ea, readField s src = some v ∧ effectiveAddress s op = some ea ∧
      ((dataForbidden s ea = true ∧ t = takeException .dataProtection s) ∨
        (dataForbidden s ea = false ∧ ∃ u, dataWrite s ea v = .ok u ∧ t = u.advance)) := by
  unfold execSt at h
  split at h
  · rename_i v ea hv he
    refine ⟨v, ea, hv, he, ?_⟩
    split at h
    · rename_i hf
      cases h
      exact .inl ⟨hf, rfl⟩
    · rename_i hf
      split at h
      · rename_i u hu
        cases h
        exact .inr ⟨by simpa using hf, u, hu, rfl⟩
      · cases h
  · cases h

/-- `scall` answers a next state in user mode only. -/
theorem execScall_next (s t : State) (h : execScall s = .next t) :
    s.psr.um = true ∧
      t = { s.drawn with
            spsr := s.freeWord.extractLsb' 0 24 ++ s.psr.bits
            pr31 := nextPc s
            psr := superPsr s.cfg.scallPsr
            pc := s.ccb.systemAddr } := by
  unfold execScall at h
  split at h
  · rename_i hu
    cases h
    exact ⟨hu, rfl⟩
  · cases h

/-- `retu` answers a next state in super user mode only. -/
theorem execRetu_next (s t : State) (h : execRetu s = .next t) : s.psr.um = false ∧ t = returnToUser s := by
  unfold execRetu at h
  split at h
  · cases h
  · rename_i hu
    cases h
    exact ⟨by simpa using hu, rfl⟩

/-- `chrs` answers a next state in both modes. -/
theorem execChrs_next (rd wr : Bool) (s t : State) (h : execChrs rd wr s = .next t) :
    (s.psr.um = true ∧ t = takeException .privilege s) ∨
      (s.psr.um = false ∧ t = (s.setPsr { s.psr with rsrd := rd, rswr := wr }).advance) := by
  unfold execChrs at h
  split at h
  · rename_i hu
    cases h
    exact .inl ⟨hu, rfl⟩
  · rename_i hu
    cases h
    exact .inr ⟨by simpa using hu, rfl⟩

/-- `cop` answers a next state when the coprocessor has a model attached. -/
theorem execCop_next (n : BitVec 2) (w : Word) (s t : State) (h : execCop n w s = .next t) :
    s.cops.getLsbD n.toNat = true ∧
      t = (s.recordCop { n := n, index := copIndex s.ccb n, word := w }).advance := by
  unfold execCop at h
  split at h
  · rename_i hn
    cases h
    exact ⟨hn, rfl⟩
  · cases h

/-- A free word is an instruction that can be written in the word length, or bits of that length. -/
theorem freeCode_cases (s : State) :
    (∃ i, i.wellFormed s.psr.il = true ∧ freeCode s = .term s.psr.il i) ∨
      ∃ w : Word, (s.psr.il = false → w.toNat < 2 ^ 16) ∧ freeCode s = .raw w := by
  unfold freeCode
  split
  · rename_i i hi
    exact .inl ⟨i, (Option.filter_eq_some_iff.1 hi).2, rfl⟩
  · refine .inr ⟨_, fun hl => ?_, rfl⟩
    simp [wordBits, hl]
    omega

/-- A free word that is an instruction decodes to it; one that is bits does not decode. -/
theorem decodeCode_freeCode (s : State) :
    (∃ i, i.wellFormed s.psr.il = true ∧ decodeCode s.psr.il (freeCode s) = .ok i) ∨
      decodeCode s.psr.il (freeCode s) = .error .noEncodingInSource := by
  rcases freeCode_cases s with ⟨i, hw, hi⟩ | ⟨w, _, hw⟩
  · exact .inl ⟨i, hw, by simp [hi, decodeCode, hw]⟩
  · exact .inr (by simp [hw, decodeCode, decodeWord])

/-- The fetch changes nothing but the free value counter. -/
theorem fetchState_eq (s : State) : fetchState s = { s with draws := (fetchState s).draws } := by
  unfold fetchState
  split <;> rfl

@[simp] theorem fetchState_r (s : State) : (fetchState s).r = s.r := by rw [fetchState_eq]
@[simp] theorem fetchState_pr (s : State) : (fetchState s).pr = s.pr := by rw [fetchState_eq]
@[simp] theorem fetchState_pr31 (s : State) : (fetchState s).pr31 = s.pr31 := by rw [fetchState_eq]
@[simp] theorem fetchState_psr (s : State) : (fetchState s).psr = s.psr := by rw [fetchState_eq]
@[simp] theorem fetchState_spsr (s : State) : (fetchState s).spsr = s.spsr := by rw [fetchState_eq]
@[simp] theorem fetchState_cr (s : State) : (fetchState s).cr = s.cr := by rw [fetchState_eq]
@[simp] theorem fetchState_pc (s : State) : (fetchState s).pc = s.pc := by rw [fetchState_eq]
@[simp] theorem fetchState_ccb (s : State) : (fetchState s).ccb = s.ccb := by rw [fetchState_eq]
@[simp] theorem fetchState_mem (s : State) : (fetchState s).mem = s.mem := by rw [fetchState_eq]
@[simp] theorem fetchState_imem (s : State) : (fetchState s).imem = s.imem := by rw [fetchState_eq]
@[simp] theorem fetchState_storedTo (s : State) : (fetchState s).storedTo = s.storedTo := by rw [fetchState_eq]
@[simp] theorem fetchState_intEntry (s : State) : (fetchState s).intEntry = s.intEntry := by rw [fetchState_eq]
@[simp] theorem fetchState_requests (s : State) : (fetchState s).requests = s.requests := by rw [fetchState_eq]
@[simp] theorem fetchState_pcbLog (s : State) : (fetchState s).pcbLog = s.pcbLog := by rw [fetchState_eq]
@[simp] theorem fetchState_copLog (s : State) : (fetchState s).copLog = s.copLog := by rw [fetchState_eq]
@[simp] theorem fetchState_cops (s : State) : (fetchState s).cops = s.cops := by rw [fetchState_eq]
@[simp] theorem fetchState_cfg (s : State) : (fetchState s).cfg = s.cfg := by rw [fetchState_eq]

/-- What an accepted write leaves alone, whatever it reached. -/
theorem dataWrite_frame (s u : State) (a v : Word) (h : dataWrite s a v = .ok u) :
    u.r = s.r ∧ u.pr = s.pr ∧ u.pr31 = s.pr31 ∧ u.psr = s.psr ∧ u.spsr = s.spsr ∧ u.cr = s.cr ∧ u.pc = s.pc ∧
      u.imem = s.imem ∧ u.cops = s.cops ∧ u.cfg = s.cfg ∧ u.ccb.exceptionCs = s.ccb.exceptionCs ∧
      u.ccb.exceptionPc = s.ccb.exceptionPc ∧ u.ccb.exceptionPsr = s.ccb.exceptionPsr := by
  rcases dataWrite_cases _ _ _ _ h with ⟨r, _, h1, _, rfl⟩ | ⟨_, rfl⟩ | ⟨_, rfl⟩
  · obtain ⟨a, b, c⟩ := Ccb.set_exception s.ccb r v h1
    exact ⟨rfl, rfl, rfl, rfl, rfl, rfl, rfl, rfl, rfl, rfl, a, b, c⟩
  · exact ⟨rfl, rfl, rfl, rfl, rfl, rfl, rfl, rfl, rfl, rfl, rfl, rfl, rfl⟩
  · exact ⟨rfl, rfl, rfl, rfl, rfl, rfl, rfl, rfl, rfl, rfl, rfl, rfl, rfl⟩

/-- Everything an instruction can do: raise, or one of its own effects. -/
theorem exec_next (i : Instr) (s t : State) (h : exec i s = .next t) :
    (∃ c, t = takeException c s) ∨
      (i = .scall ∧ s.psr.um = true ∧
        t = { s.drawn with
              spsr := s.freeWord.extractLsb' 0 24 ++ s.psr.bits
              pr31 := nextPc s
              psr := superPsr s.cfg.scallPsr
              pc := s.ccb.systemAddr }) ∨
      (i = .retu ∧ s.psr.um = false ∧ t = returnToUser s) ∨
      (∃ rd wr, i = .chrs rd wr ∧ s.psr.um = false ∧ t = (s.setPsr { s.psr with rsrd := rd, rswr := wr }).advance) ∨
      (∃ n w, i = .cop n w ∧ t = (s.recordCop { n := n, index := copIndex s.ccb n, word := w }).advance) ∨
      (∃ d op j ea, i = .ld d op ∧ dataForbidden s ea = false ∧
        t = (writeReg (dataReadState s ea) j (dataReadValue s ea)).advance) ∨
      (∃ f op v ea u, i = .st f op ∧ dataForbidden s ea = false ∧ dataWrite s ea v = .ok u ∧ t = u.advance) := by
  cases i with
  | ld d op =>
    obtain ⟨j, ea, _, _, ⟨_, rfl⟩ | ⟨hf, rfl⟩⟩ := execLd_next _ _ _ _ h
    · exact .inl ⟨_, rfl⟩
    · exact .inr (.inr (.inr (.inr (.inr (.inl ⟨_, _, _, _, rfl, hf, rfl⟩)))))
  | st f op =>
    obtain ⟨v, ea, _, _, ⟨_, rfl⟩ | ⟨hf, u, hu, rfl⟩⟩ := execSt_next _ _ _ _ h
    · exact .inl ⟨_, rfl⟩
    · exact .inr (.inr (.inr (.inr (.inr (.inr ⟨_, _, _, _, _, rfl, hf, hu, rfl⟩)))))
  | scall =>
    obtain ⟨hu, rfl⟩ := execScall_next _ _ h
    exact .inr (.inl ⟨rfl, hu, rfl⟩)
  | retu =>
    obtain ⟨hu, rfl⟩ := execRetu_next _ _ h
    exact .inr (.inr (.inl ⟨rfl, hu, rfl⟩))
  | chrs rd wr =>
    rcases execChrs_next _ _ _ _ h with ⟨_, rfl⟩ | ⟨hu, rfl⟩
    · exact .inl ⟨_, rfl⟩
    · exact .inr (.inr (.inr (.inl ⟨_, _, rfl, hu, rfl⟩)))
  | cop n w =>
    obtain ⟨_, rfl⟩ := execCop_next _ _ _ _ h
    exact .inr (.inr (.inr (.inr (.inl ⟨_, _, rfl, rfl⟩))))

/-- Everything a step can do: take an interrupt, enter the exception handler from the fetch, or execute one instruction. -/
theorem step_next (s t : State) (h : step s = .next t) :
    (∃ src, TakesInterrupt s src ∧ t = takeInterrupt src (observe s)) ∨
      (s.intEntry = none ∧ interruptChoice (observe s) = none ∧ fetchForbidden (observe s) = true ∧
        t = takeException .instrProtection (observe s)) ∨
      (∃ i, Runs s i ∧ exec i (fetchState (observe s)) = .next t) := by
  unfold step at h
  split at h
  · cases h
  · rename_i hn
    split at h
    · rename_i src hc
      cases h
      exact .inl ⟨src, ⟨hn, hc⟩, rfl⟩
    · rename_i hc
      unfold runInstr at h
      split at h
      · rename_i hf
        cases h
        exact .inr (.inl ⟨hn, hc, hf, rfl⟩)
      · rename_i hf
        split at h
        · rename_i ha
          split at h
          · rename_i i hd
            exact .inr (.inr ⟨i, ⟨hn, hc, by simpa using hf, ha, hd⟩, h⟩)
          · cases h
        · cases h

end Sys2Proof.Machine
end

