-- ==== Sys2Proof/Laws/PerInstr.lean ====
section
/-! SUPPORT. A statement about every instruction as syntax, one lemma per constructor: an instruction that can be written in 16 bit
mode can be written in 32 bit mode too, and in 16 bit mode each of its register fields names an index from 24 to 31 (R42,
R143, R147). -/

namespace Sys2Proof.Laws.Writable

open Sys2Proof.Machine

/-- What can be written in 16 bit mode can be written in 32 bit mode and reaches the last eight registers only. -/
def Statement (i : Instr) : Prop :=
  i.wellFormed false = true →
    i.wellFormed true = true ∧ ∀ f ∈ i.fields, ∃ x, ridx false f = some x ∧ 24 ≤ x.val

/-- The statement depends on the list of fields alone. -/
theorem of_fields (i : Instr) : Statement i := by
  intro h
  simp only [Instr.wellFormed, List.all_eq_true] at h ⊢
  refine ⟨fun f _ => rfl, fun f hf => ?_⟩
  have hlt : f.toNat < 8 := by simpa [fieldWritable] using h f hf
  exact ⟨⟨f.toNat + 24, by omega⟩, by simp [ridx, hlt], by simp⟩

theorem ld (d : BitVec 5) (op : AddrOperand) : Statement (.ld d op) := of_fields _
theorem st (src : BitVec 5) (op : AddrOperand) : Statement (.st src op) := of_fields _
theorem scall : Statement .scall := of_fields _
theorem retu : Statement .retu := of_fields _
theorem chrs (rd wr : Bool) : Statement (.chrs rd wr) := of_fields _
theorem cop (n : BitVec 2) (w : Word) : Statement (.cop n w) := of_fields _

end Sys2Proof.Laws.Writable
end

