-- ==== Sys2Proof/Tests/Slice0.lean ====
section
/-! SUPPORT. The model's own tests. Expected results come from spec/95_test_vectors.md (V1 to V52, programs P1 to P5), by the vector
named beside each, or from the rule named. Vectors that need a parameter use the spec's suggested values (`Params.suggested`).
The last part shows, for every statement with hypotheses, a state and operands that meet them. -/

namespace Sys2Proof.Tests

open Sys2Proof Sys2Proof.Machine

/-- After reset with the suggested parameters, entry at 0, empty memories. -/
def base : State := State.launch Params.suggested 0#32 [] []

/-- PSR from its five flags. -/
def psrOf (ie il rswr rsrd um : Bool) : Psr := { ie := ie, il := il, rswr := rswr, rsrd := rsrd, um := um }

/-- User mode with IE = 1 in 32 bit mode (PSR = 0x19), every address allowed, pc = 0x2000. -/
def user : State :=
  { base with
    psr := psrOf true true false false true
    pc := 0x00002000#32
    ccb := { base.ccb with memPconf := 0b00#2, systemAddr := 0x00000100#32, excepAddr := 0x00000200#32 } }

/-- The same with interrupts disabled (PSR = 0x09). -/
def quietUser : State := { user with psr := psrOf false true false false true }

/-- The user's data area is 0x1000 to 0x1FFF and is allowed (the state of V40 to V44). -/
def bounded : State :=
  { quietUser with ccb := { quietUser.ccb with dmemBoundLo := 0x00001000#32, dmemBoundHi := 0x00001FFF#32 } }

/-- A field of the next state, if there is one. -/
def after {α : Type} (o : Host.Outcome State Fault Refusal) (f : State → α) : Option α :=
  match o with
  | .next t => some (f t)
  | .fault _ => none
  | .refused _ => none

/-- Why an outcome is refused, if it is. -/
def why (o : Host.Outcome State Fault Refusal) : Option Refusal :=
  match o with
  | .refused r => some r
  | .next _ => none
  | .fault _ => none

/-- The state with one instruction term at pc. -/
def withTerm (s : State) (i : Instr) : State := placeAtPc s (encode s.psr.il i)

/-! ### Well-formedness and decoding -/

/-- An ill-formed term for each check: the target field, the source field and an address field above 7 in 16 bit mode. -/
theorem test_wellFormed_smoke :
    Instr.wellFormed false (.ld 8#5 (.given 0#32)) = false ∧ Instr.wellFormed false (.st 31#5 (.given 0#32)) = false ∧
      Instr.wellFormed false (.ld 7#5 (.formed [7#5, 8#5] 0#32)) = false ∧
      Instr.wellFormed false (.ld 7#5 (.formed [0#5] 0#32)) = true ∧ Instr.wellFormed true (.ld 31#5 (.given 0#32)) = true := by
  decide

/-- U14: no word decodes, in either length. -/
theorem test_raw_word_has_no_meaning :
    decodeCode true (.raw 0x00000000#32) = .error .noEncodingInSource ∧
      decodeCode false (.raw 0xFFFFFFFF#32) = .error .noEncodingInSource ∧ decodeTableWord 32 0 = none := by
  decide

/-- One term of every family decodes to itself in its own word length and not in the other (R140). -/
theorem test_terms_decode :
    decodeCode true (encode true (.ld 3#5 (.given 0x0001001C#32))) = .ok (.ld 3#5 (.given 0x0001001C#32)) ∧
      decodeCode false (encode false (.st 1#5 (.given 0x3000#32))) = .ok (.st 1#5 (.given 0x3000#32)) ∧
      decodeCode true (encode true .scall) = .ok .scall ∧ decodeCode true (encode true .retu) = .ok .retu ∧
      decodeCode true (encode true (.chrs false true)) = .ok (.chrs false true) ∧
      decodeCode true (encode true (.cop 2#2 5#32)) = .ok (.cop 2#2 5#32) ∧
      decodeCode true (encode false .retu) = .error .otherWordLength := by
  decide

/-- V3: register names in 16 bit mode. -/
theorem test_v3_register_names :
    (ridx false 0#5).map Fin.val = some 24 ∧ (ridx false 7#5).map Fin.val = some 31 ∧ ridx false 8#5 = none ∧
      (ridx true 31#5).map Fin.val = some 31 := by
  decide

/-! ### Registers -/

/-- V1, V2: PSR and SPSR after reset. -/
theorem test_v1_v2_reset_psr : base.psr.bits = 0b00001110#8 ∧ base.spsr = 0x00000009#32 := by decide

/-- The state of V11 to V16 with a given PSR. -/
def vreg (p : Psr) : State :=
  { base with r := (base.r.set 5 0x11111111#32).set 29 0x33333333#32, pr := base.pr.set 5 0x22222222#32, psr := p }

/-- V11 to V15. -/
theorem test_v11_v15_source_selector :
    readReg (vreg (psrOf false true true true false)) 5 = 0x22222222#32 ∧
      readReg (vreg (psrOf false true true false false)) 5 = 0x11111111#32 ∧
      readReg (vreg (psrOf false true true true false)) 29 = 0x0000000E#32 ∧
      readReg (vreg (psrOf false true true false false)) 29 = 0x33333333#32 ∧
      readReg (vreg (psrOf false true true true false)) 30 = 0x00000009#32 := by
  decide

/-- V17, V18: PSR ignores register writes, SPSR takes 32 bits. -/
theorem test_v17_v18_target_selector :
    writeReg base 29 0xFFFFFFFF#32 = base ∧ (writeReg base 30 0xDEADBE18#32).spsr = 0xDEADBE18#32 ∧
      (writeReg { base with psr := psrOf false true false true false } 29 0xFFFFFFFF#32).r[29] = 0xFFFFFFFF#32 := by
  refine ⟨rfl, by decide, by decide⟩

/-- V19: in 16 bit mode field 5 reads PSR. -/
theorem test_v19_field5_reads_psr : readField { base with psr := psrOf false false true true false } 5#5 = some 0x6#32 := by
  decide

/-! ### The CCB and the data path -/

/-- V30: short registers read back zero extended. -/
theorem test_v30_short_registers :
    (base.ccb.set .intModeUm 0xFFFFFFFF#32).get .intModeUm = 0x00000FFF#32 ∧
      (base.ccb.set .memPconf 0xFFFFFFFF#32).get .memPconf = 0x00000003#32 ∧
      (base.ccb.set .copIntPri 0x12345678#32).get .copIntPri = 0x00005678#32 := by
  decide

/-- V32 to V39, and V36 with the reset value of CCB_END. -/
theorem test_v32_v39_data_targets :
    let c : Ccb := { base.ccb with ccbEnd := 0x000101FF#32 }
    dataTarget c 0x00010000#32 = .ccb .ccbBase ∧ dataTarget c 0x00010026#32 = .ccb .copIfMode ∧
      dataTarget c 0x00010027#32 = .reserved ∧ dataTarget c 0x000100FF#32 = .reserved ∧
      dataTarget c 0x00010100#32 = .pcb ∧ dataTarget c 0x000101FF#32 = .pcb ∧ dataTarget c 0x00010200#32 = .memory ∧
      dataTarget c 0x0000FFFF#32 = .memory ∧ dataTarget base.ccb 0x00010100#32 = .memory := by
  decide

/-- R104: with CCB_BASE = 0xFFFFFF00 there is no PCB window. -/
theorem test_pcb_window_does_not_wrap :
    dataTarget { base.ccb with ccbBase := 0xFFFFFF00#32, ccbEnd := 0xFFFFFFFF#32 } 0x00000000#32 = .memory := by
  decide

/-- V40 to V44 and V48. -/
theorem test_v40_v44_data_protection :
    dataForbidden bounded 0x00000FFF#32 = true ∧ dataForbidden bounded 0x00001000#32 = false ∧
      dataForbidden bounded 0x00001FFF#32 = false ∧ dataForbidden bounded 0x00002000#32 = true ∧
      dataForbidden bounded 0x0001001C#32 = true ∧ dataForbidden base 0x00000FFF#32 = false := by
  decide

/-- V45 to V47, V49, V50. -/
theorem test_v45_v50_data_protection :
    let p : Ccb := { bounded.ccb with memPconf := 0b10#2 }
    let x : Ccb := { p with dmemBoundLo := 0x2000#32, dmemBoundHi := 0x1000#32 }
    dataAllowed p 0x00001000#32 = false ∧ dataAllowed p 0x00002000#32 = true ∧ dataAllowed p 0x0001001C#32 = true ∧
      dataAllowed x 0x1800#32 = true ∧ dataAllowed { x with memPconf := 0#2 } 0x1800#32 = false := by
  decide

/-! ### Instructions -/

/-- The example of R160: loading MEM_PCONF into PR3 after reset. -/
theorem test_ld_mem_pconf :
    after (exec (.ld 3#5 (.given 0x0001001C#32)) base) (fun t => (t.pr[3], t.pc)) = some (3#32, 4#32) := by
  decide

/-- V52: a forbidden `ld` enters the exception handler. -/
theorem test_v52_ld_traps :
    after (exec (.ld 3#5 (.given 0x0001001C#32)) { bounded with pc := 0x00002008#32 })
        (fun t => (t.ccb.exceptionPc, t.ccb.exceptionPsr, t.psr.bits, t.pc, t.r[3])) =
      some (0x00002008#32, 0x09#8, 0x0E#8, 0x00000200#32, 0#32) := by
  decide

/-- The example of R161: MEM_PCONF takes 2. -/
theorem test_st_mem_pconf :
    after (exec (.st 4#5 (.given 0x0001001C#32)) { base with pr := base.pr.set 4 0x2#32 })
        (fun t => (t.ccb.get .memPconf, t.pc)) = some (2#32, 4#32) := by
  decide

/-- P5: a 16 bit `st` of field 1 stores R25. -/
theorem test_p5_st_16_bit :
    after (exec (.st 1#5 (.given 0x3000#32))
        { quietUser with psr := psrOf false false false false true, r := base.r.set 25 0x0BADF00D#32 })
        (fun t => (memRead t.mem 0x3000#32, t.pc, t.storedTo)) = some (0x0BADF00D#32, 0x2002#32, [0x3000]) := by
  decide

/-- V21: `scall` in 32 bit mode. -/
theorem test_v21_scall :
    after (exec .scall { user with spsr := 0xAAAAAA00#32 })
        (fun t => (t.pr31, t.psr.bits, t.pc)) = some (0x00002004#32, 0x0E#8, 0x00000100#32) := by
  decide

/-- V22: the link address in 16 bit mode. -/
theorem test_v22_scall_16_bit :
    after (exec .scall { user with psr := psrOf true false false false true }) (fun t => (t.pr31, t.pc)) =
      some (0x00002002#32, 0x00000100#32) := by
  decide

/-- V23: `retu` with the reset SPSR. -/
theorem test_v23_retu :
    after (exec .retu { base with pr31 := 0x2000#32 }) (fun t => (t.psr.bits, t.pc, t.spsr)) =
      some (0x09#8, 0x2000#32, 0x9#32) := by
  decide

/-- V24: only IE and IL are copied. -/
theorem test_v24_retu_copies_two_flags :
    after (exec .retu { base with pr31 := 0x2000#32, spsr := 0xFFFFFFFF#32 }) (fun t => t.psr.bits) = some 0x19#8 := by
  decide

/-- V26, V26b: `chrs`. -/
theorem test_v26_chrs :
    after (exec (.chrs false true) base) (fun t => t.psr.bits) = some 0x0C#8 ∧
      after (exec (.chrs true false) { base with psr := psrOf false true true false false }) (fun t => t.psr.bits) =
        some 0x0A#8 := by
  decide

/-- R175: `chrs` by the user raises PrivilegeViolation. -/
theorem test_chrs_by_user_traps :
    after (exec (.chrs true true) quietUser) (fun t => (t.ccb.exceptionPc, t.ccb.exceptionPsr, t.pc)) =
      some (0x2000#32, 0x09#8, 0x200#32) := by
  decide

/-- V27: the register index of each coprocessor. -/
theorem test_v27_cop_index :
    let c : Ccb := { base.ccb with cregIIndx := 0x0A0C5#20 }
    copIndex c 0#2 = 5#5 ∧ copIndex c 1#2 = 6#5 ∧ copIndex c 2#2 = 8#5 ∧ copIndex c 3#2 = 1#5 := by
  decide

/-- R180: what the coprocessor receives. -/
theorem test_cop_sends :
    after (exec (.cop 1#2 0x77#32) { base with ccb := { base.ccb with cregIIndx := 0x0A0C5#20 } })
        (fun t => (t.copLog, t.pc)) = some ([{ n := 1#2, index := 6#5, word := 0x77#32 }], 4#32) := by
  decide

/-! ### Interrupts and timing -/

/-- The priorities of V28. -/
def v28 : Ccb := { base.ccb with extIntPri := 0x76543210#32, copIntPri := 0x1234#16 }

/-- V28. -/
theorem test_v28_priorities :
    (interruptSources.map (fun x => (interruptPriority v28 x).toNat)) = [4, 3, 2, 1, 0, 1, 2, 3, 4, 5, 6, 7] := by
  decide

/-- The state of V29: IE = 1, a mask and some requests. -/
def v29 (ie : Bool) (mask requests : BitVec 12) : State :=
  { base with psr := psrOf ie true true true false, ccb := { v28 with intMask := mask }, requests := requests }

/-- V29. -/
theorem test_v29_candidates :
    bestCandidates (v29 true 0xFFF#12 0x048#12) = [3] ∧ bestCandidates (v29 true 0xFFF#12 0x044#12) = [2, 6] ∧
      bestCandidates (v29 true 0xFFF#12 0x018#12) = [4] ∧ bestCandidates (v29 true 0xFEF#12 0x018#12) = [3] ∧
      bestCandidates (v29 false 0xFFF#12 0x018#12) = [] := by
  decide

/-- V51: the entry of sources 0 and 4. -/
theorem test_v51_interrupt_entry :
    let c : Ccb :=
      { base.ccb with
        intModeIl := 0xFFE#12, intModeUm := 0x010#12
        copIntVec := base.ccb.copIntVec.set 0 0x400#32, extIntVec := base.ccb.extIntVec.set 0 0x800#32 }
    let t := takeInterrupt 0 { base with ccb := c }
    let u := takeInterrupt 4 { base with ccb := c }
    (t.psr.il, t.psr.rswr, t.psr.rsrd, t.psr.um, t.pc) = (false, true, true, false, 0x400#32) ∧
      (u.psr.il, u.psr.rswr, u.psr.rsrd, u.psr.um, u.pc) = (true, false, false, true, 0x800#32) := by
  decide

/-- V31 and V5: access times. -/
theorem test_v31_access_cycles :
    let c : Ccb := { base.ccb with waitStates := 0x012#12 }
    accessCycles c .coprocessor = 1 ∧ accessCycles c .data = 2 ∧ accessCycles c .instruction = 3 ∧
      accessCycles base.ccb .data = 16 := by
  decide

/-! ### One step (programs P1, P2, P4) -/

/-- P1, last instruction: `retu` into the user's code. -/
theorem test_p1_step_retu :
    after (step (withTerm { base with pc := 0x20#32, pr31 := 0x2000#32 } .retu)) (fun t => (t.psr.bits, t.pc)) =
      some (0x09#8, 0x2000#32) := by
  decide

/-- P2, fourth instruction: the handler's `chrs`. -/
theorem test_p2_step_chrs :
    after (step (withTerm { base with pc := 0x100#32 } (.chrs false true))) (fun t => (t.psr.bits, t.pc)) =
      some (0x0C#8, 0x104#32) := by
  decide

/-- A fetch of a word with no meaning, and of a misaligned pc, is refused (U14, U21). -/
theorem test_fetch_refusals :
    why (step base) = some (.undecodable .noEncodingInSource) ∧
      why (step (withTerm { base with pc := 0x2#32 } .retu)) = some .misalignedFetch ∧
      why (step (base.withFetchWord 32 0)) = some (.undecodable .noEncodingInSource) := by
  decide

/-- R172 (a): with the reset protection the user's first fetch is a violation with EXCEPTION_PC its address. -/
theorem test_user_fetch_traps :
    after (step { base with psr := psrOf false true false false true, pc := 0x2000#32 })
        (fun t => (t.ccb.exceptionPc, t.ccb.exceptionPsr, t.psr.um)) = some (0x2000#32, 0x09#8, false) := by
  decide

/-- Reset itself: with no program placed the first step is refused (log 1). -/
theorem test_reset_has_no_program : why (step State.reset) = some (.undecodable .noEncodingInSource) := by
  rfl


/-! ### Witnesses: for every statement with hypotheses, a state and operands that meet them, one for each clause -/

/-- A state of a given step whose next state exists. -/
def steps (s : State) : Prop := ∃ t, step s = .next t

/-- The user with one instruction at pc and interrupts disabled. -/
def quietTerm (i : Instr) : State := withTerm quietUser i

theorem test_witness_BitPatternsHaveNoMeaning :
    ∃ f ∈ (Instr.ld 8#5 (.given 0#32)).fields, 8 ≤ f.toNat := ⟨8#5, by decide, by decide⟩

theorem test_witness_DecodeOfEncodedTerm :
    Instr.wellFormed false (.ld 7#5 (.formed [0#5] 1#32)) = true ∧ Instr.wellFormed true (.st 31#5 (.given 0#32)) = true := by
  decide

theorem test_witness_RegisterFieldNamesIndex :
    (7#5).toNat ≤ 7 ∧ 8 ≤ (8#5).toNat ∧
      (let s := { quietUser with psr := psrOf false false false false true }
       ridx s.psr.il 7#5 = some 31 ∧ s.psr.il = false ∧
         after (exec (.ld 0#5 (.given 0x3000#32)) { s with mem := memWrite [] 0x3000#32 5#32 })
           (fun t => (t.r[23], t.r[24])) = some (0#32, 5#32)) ∧
      (23 : Fin 32).val < 24 := by
  decide

theorem test_witness_StepRunsDecodedInstruction : Runs (quietTerm (.chrs true true)) (.chrs true true) :=
  ⟨rfl, rfl, by decide, by decide, rfl⟩

theorem test_witness_PlacedTermRuns :
    let s := quietTerm .scall
    s.intEntry = none ∧ s.psr.ie = false ∧ (s.psr.um = true → instrAllowed s.ccb s.pc = true) ∧
      s.pc % istep s.cfg s.psr.il = 0#32 ∧ codeRead s.imem s.pc = .term s.psr.il .scall ∧
      Instr.scall.wellFormed s.psr.il = true ∧ s.pc.toNat ∉ s.storedTo := by
  decide

/-- A state whose fetch is free: unified memory, and pc has been stored to. -/
def freeFetch : State :=
  { base with storedTo := [0], cfg := { Params.suggested with unifiedMemory := true } }

/-- R125: what such a fetch gives is a word of the word length and not always bits: nothing is said of which. -/
theorem test_free_fetch : fetchWord freeFetch = freeCode freeFetch ∧ (fetchState freeFetch).draws = 1 := ⟨rfl, rfl⟩

/-- One state for each clause: a misaligned pc, bits, the other word length and an unwritable term. -/
def fetchStates : List State :=
  [{ base with pc := 0x2#32 }, base,
    placeAtPc base (.term false .retu),
    placeAtPc { base with psr := psrOf false false true true false } (.term false (.ld 8#5 (.given 0#32)))]

theorem test_witness_FetchStops :
    (∀ s ∈ fetchStates, s.intEntry = none ∧ interruptChoice (observe s) = none ∧ s.psr.um = false) ∧
      fetchStates.map (fun s => why (step s)) =
        [some .misalignedFetch, some (.undecodable .noEncodingInSource), some (.undecodable .otherWordLength),
          some (.undecodable .notWritable)] ∧
      fetchStates.map fetchIsFree = [false, false, false, false] ∧
      fetchIsFree freeFetch = true ∧ freeFetch.intEntry = none ∧ interruptChoice (observe freeFetch) = none ∧
      freeFetch.psr.um = false ∧ freeFetch.pc % istep freeFetch.cfg freeFetch.psr.il = 0#32 := by
  refine ⟨?_, by decide, by decide, by decide, rfl, rfl, rfl, by decide⟩
  intro s h
  simp only [fetchStates, List.mem_cons, List.not_mem_nil, or_false] at h
  rcases h with rfl | rfl | rfl | rfl <;> exact ⟨rfl, rfl, rfl⟩

theorem test_witness_FetchAfterStore :
    (let s := { base with storedTo := [0], cfg := { Params.suggested with unifiedMemory := true } }
     s.cfg.unifiedMemory = true ∧ s.pc.toNat ∈ s.storedTo) ∧
    base.cfg.unifiedMemory = false ∧ base.pc.toNat ∉ base.storedTo := by
  decide

theorem test_witness_SourceSelector_TargetSelector :
    quietUser.psr.rsrd = false ∧ quietUser.psr.rswr = false ∧ base.psr.rsrd = true ∧ base.psr.rswr = true ∧
      (0 : Fin 32).val < 29 ∧ (28 : Fin 32).val < 29 ∧ (29 : Fin 32).val = 29 ∧ (30 : Fin 32).val = 30 ∧
      (31 : Fin 32).val = 31 := by
  decide

theorem test_witness_PsrReadsAsFiveBits : base.psr.rsrd = true := by decide

theorem test_witness_CcbOffsetMap : (0x26#8).toNat < 0x27 ∧ 0x27 ≤ (0x27#8).toNat ∧ 0x27 ≤ (0xFF#8).toNat := by decide

theorem test_witness_CcbWriteThenRead :
    (∃ c', ccbWrite base.ccb .intMask 0xFFFFFFFF#32 = .ok c') ∧ (∃ c', ccbWrite base.ccb .ccbBase 0x20000#32 = .ok c') ∧
      CcbReg.intModeUm ≠ .intMask :=
  ⟨⟨_, rfl⟩, ⟨_, rfl⟩, by decide⟩

theorem test_witness_LaunchMeetsInvariant :
    memWf [(0, 1#32), (0xFFFFFFFF, 2#32)] = true ∧ codeWf [(0x20, .term true .retu)] = true := by
  decide

theorem test_witness_CcbWindow_DataAddressMap :
    base.ccb.ccbBase.extractLsb' 0 8 = 0#8 ∧ (0xFFFFFF00#32).extractLsb' 0 8 = 0#8 := by decide

/-- The user with the data area 0x1000 to 0x3001 allowed. -/
def wide : State :=
  { quietUser with ccb := { quietUser.ccb with dmemBoundLo := 0x00001000#32, dmemBoundHi := 0x00003001#32 } }

/-- Both cases of the conclusion: the same address and another one, each at an end of the allowed area or inside it. -/
theorem test_witness_StoreThenLoad :
    memWf wide.mem = true ∧ readField wide 1#5 = some 0#32 ∧ ridx wide.psr.il 2#5 = some 2 ∧
      dataTarget wide.ccb 0x3000#32 = .memory ∧ dataTarget wide.ccb 0x3001#32 = .memory ∧
      dataForbidden wide 0x3000#32 = false ∧ dataForbidden wide 0x3001#32 = false ∧
      after (exec (.st 1#5 (.given 0x3000#32)) wide)
          (fun t => (t.pc, effectiveAddress t (.given 0x3001#32), (effectiveAddress t (.formed [1#5] 4#32)).isSome)) =
        some (0x2004#32, some 0x3001#32, true) := by
  decide

theorem test_witness_DataProtectionRule_InstrProtectionRule :
    base.ccb.memPconf.getLsbD 1 = true ∧ user.ccb.memPconf.getLsbD 1 = false ∧ base.ccb.memPconf.getLsbD 0 = true ∧
      user.ccb.memPconf.getLsbD 0 = false ∧ base.psr.um = false ∧ user.psr.um = true := by
  decide

theorem test_witness_EmptyAreaWhenBoundsCross :
    let c : Ccb := { base.ccb with
      dmemBoundLo := 0x2000#32, dmemBoundHi := 0x1FFF#32, imemBoundLo := 0x1#32, imemBoundHi := 0#32 }
    c.dmemBoundHi.toNat < c.dmemBoundLo.toNat ∧ c.imemBoundHi.toNat < c.imemBoundLo.toNat := by
  decide

/-- The super user after reset with the PCB window open: every address is allowed, and each target is reached. -/
def open4 : State := { base with ccb := { base.ccb with ccbEnd := 0x000101FF#32 } }

theorem test_witness_LdCompletes_LdFrame :
    ridx open4.psr.il 30#5 = some 30 ∧ dataForbidden open4 0x00010026#32 = false ∧
      dataForbidden open4 0x00010200#32 = false ∧
      dataTarget open4.ccb 0x00010026#32 = .ccb .copIfMode ∧ dataTarget open4.ccb 0x00010027#32 = .reserved ∧
      dataTarget open4.ccb 0x000101FF#32 = .pcb ∧ dataTarget open4.ccb 0x00010200#32 = .memory ∧
      after (exec (.ld 30#5 (.given 0x00010200#32)) open4) (fun t => t.pc) = some 4#32 := by
  decide

theorem test_witness_StCompletes_StFrame :
    readField open4 4#5 = some 0#32 ∧ CcbReg.copIfMode.access = .rw ∧ CcbReg.ccbBase.access = .rw ∧
      (0x00020000#32).extractLsb' 0 8 = 0#8 ∧ dataTarget open4.ccb 0x00010000#32 = .ccb .ccbBase ∧
      after (exec (.st 4#5 (.given 0x00010026#32)) open4) (fun t => t.pc) = some 4#32 ∧
      after (exec (.st 4#5 (.given 0x000101FF#32)) open4) (fun t => t.pc) = some 4#32 ∧
      after (exec (.st 4#5 (.given 0x00010200#32)) open4) (fun t => t.pc) = some 4#32 := by
  decide

theorem test_witness_LoadStoreRefusals :
    (let s := { base with psr := psrOf false false true true false }
     s.psr.il = false ∧ 8 ≤ (8#5).toNat ∧ 8 ≤ (31#5).toNat ∧
       (∃ g ∈ (AddrOperand.formed [0#5, 8#5] 0#32).fields, 8 ≤ g.toNat) ∧
       why (exec (.ld 7#5 (.formed [0#5, 8#5] 0#32)) s) = some .fieldNotIn16BitMode) ∧
      readField base 29#5 = some 0x0E#32 ∧ (0x0E#32).extractLsb' 0 8 ≠ 0#8 ∧
      dataTarget base.ccb 0x00010012#32 = .ccb .intPend ∧ CcbReg.intPend.access = .readOnly ∧
      dataTarget base.ccb 0x00010011#32 = .ccb .intServ ∧ CcbReg.intServ.access = .status ∧
      why (exec (.st 29#5 (.given 0x00010000#32)) base) = some .ccbBaseNotAligned := by
  decide

theorem test_witness_ForbiddenAccessTraps :
    ridx bounded.psr.il 3#5 = some 3 ∧ effectiveAddress bounded (.given 0x00002000#32) = some 0x00002000#32 ∧
      bounded.psr.um = true ∧ dataAllowed bounded.ccb 0x00002000#32 = false ∧
      dataAllowed bounded.ccb 0x00000FFF#32 = false := by
  decide

theorem test_witness_modes : user.psr.um = true ∧ base.psr.um = false := by decide

theorem test_witness_CopCompletes :
    base.cops.getLsbD (3#2).toNat = true ∧ (0x7#4).getLsbD (3#2).toNat = false := by
  decide

theorem test_witness_SystemFrame :
    (∃ t, exec .scall user = .next t) ∧ (∃ t, exec .retu base = .next t) ∧ (∃ t, exec (.chrs true true) user = .next t) ∧
      (∃ t, exec (.chrs true true) base = .next t) ∧ (∃ t, exec (.cop 0#2 1#32) base = .next t) :=
  ⟨⟨_, rfl⟩, ⟨_, rfl⟩, ⟨_, rfl⟩, ⟨_, rfl⟩, ⟨_, rfl⟩⟩

theorem test_witness_ForbiddenFetchTraps :
    let s := { base with psr := psrOf false true false false true }
    s.intEntry = none ∧ s.psr.ie = false ∧ s.psr.um = true ∧ instrAllowed s.ccb s.pc = false := by
  decide

theorem test_witness_DisabledInterruptsAreNotTaken : base.psr.ie = false ∧ base.intEntry = none := by decide

theorem test_witness_MaskedSourceIsNotTaken :
    (v29 true 0xFEF#12 0xFFF#12).ccb.intMask.getLsbD (4 : Fin 12).val = false ∧
      (v29 true 0xFEF#12 0xFFF#12).ccb.intMask.getLsbD (3 : Fin 12).val = true := by
  decide

theorem test_witness_TakenSourceHasBestPriority :
    (v29 true 0xFFF#12 0x018#12).intEntry = none ∧ candidate (v29 true 0xFFF#12 0x018#12) 4 = true := by
  decide

theorem test_witness_PriorityFields : (3 : Fin 12).val ≤ 3 ∧ 4 ≤ (4 : Fin 12).val := by decide

theorem base_inv : Inv base := ⟨by decide, by decide, by decide, by decide, by decide⟩

theorem quietTerm_inv (i : Instr) : Inv (quietTerm i) :=
  ⟨fun _ => ⟨rfl, rfl⟩, (by decide : (0x00010000#32).extractLsb' 0 8 = 0#8), rfl, codeWf_codeWrite _ _ _ rfl, rfl⟩

/-- Steps that reach a next state: a `retu` from super user mode, a `scall`, a load, a store and a trap from user mode. -/
theorem test_witness_whole_machine_steps :
    steps (withTerm base .retu) ∧ steps (quietTerm .scall) ∧ steps (quietTerm (.ld 1#5 (.given 0x0#32))) ∧
      steps (quietTerm (.st 1#5 (.given 0x0#32))) ∧ steps (quietTerm (.chrs true true)) :=
  ⟨⟨_, rfl⟩, ⟨_, rfl⟩, ⟨_, rfl⟩, ⟨_, rfl⟩, ⟨_, rfl⟩⟩

/-- The second part of `UserStepStaysInAllowedMemory`: two memories that differ in a cell that is not allowed, and an allowed cell. -/
theorem test_witness_UserStepStaysInAllowedMemory :
    let m : List (Nat × Word) := [(0x2000, 7#32)]
    memWf bounded.mem = true ∧ memWf m = true ∧ bounded.psr.um = true ∧ dataAllowed bounded.ccb 0x00002000#32 = false ∧
      dataAllowed bounded.ccb 0x00001000#32 = true ∧ memRead m 0x00002000#32 ≠ memRead bounded.mem 0x00002000#32 ∧
      ∀ a, dataAllowed bounded.ccb a = true → memRead m a = memRead bounded.mem a := by
  refine ⟨rfl, by decide, rfl, by decide, by decide, by decide, fun a h => ?_⟩
  show (if 0x2000 = a.toNat then 7#32 else 0#32) = 0#32
  rw [if_neg]
  intro e
  have : a = 0x00002000#32 := by
    apply BitVec.eq_of_toNat_eq
    rw [← e]; rfl
  subst this
  exact absurd h (by decide)

/-- The inner hypotheses of `ModeTransitions`: a step into user mode and a step out of it. -/
theorem test_witness_ModeTransitions :
    (withTerm base .retu).psr.um = false ∧ after (step (withTerm base .retu)) (fun t => t.psr.um) = some true ∧
      (quietTerm .scall).psr.um = true ∧ after (step (quietTerm .scall)) (fun t => t.psr.um) = some false := by
  decide

/-- A user whose CCB window is protected (the data area is allowed and excludes it) and who takes a step. -/
theorem test_witness_ProtectedCcbIsSafeFromUser :
    let s := withTerm bounded (.ld 1#5 (.given 0x1000#32))
    s.psr.um = true ∧ (∀ a, inCcbWindow s.ccb a = true → dataAllowed s.ccb a = false) ∧ steps s := by
  refine ⟨rfl, fun a h => ?_, _, rfl⟩
  have e : a.extractLsb' 8 24 = 0x000100#24 := of_decide_eq_true h
  have ha : a.toNat / 256 % 2 ^ 24 = 0x100 := by
    have := congrArg BitVec.toNat e
    simpa [Nat.shiftRight_eq_div_pow] using this
  show (insideBounds 0x00001000#32 0x00001FFF#32 a) = false
  simp only [insideBounds, Bool.and_eq_false_iff, decide_eq_false_iff_not, BitVec.le_def]
  have : (0x00001FFF#32).toNat = 0x1FFF := rfl
  omega

theorem test_witness_classes :
    (∃ a, readField base 1#5 = some a) ∧ ridx base.psr.il 29#5 = some 29 ∧ (1 : Fin 8) ≠ 0 :=
  ⟨⟨_, rfl⟩, rfl, by decide⟩

end Sys2Proof.Tests
end

section
/-! PROOFS. The register family: what each read and write through the set selectors does at each index, the five bits of PSR,
and what a 16 bit instruction can reach of the two register sets. -/

namespace Sys2Proof.Machine

/-! ### Reading SET 2, one equation per kind of index (R23, R27) -/

theorem readSet2_of_lt (s : State) (i : Fin 32) (h : i.val < 29) : readSet2 s i = s.pr[i.val] :=
  dif_pos h

theorem readSet2_psr (s : State) (i : Fin 32) (h : i.val = 29) : readSet2 s i = s.psr.word := by
  simp [readSet2, h]

theorem readSet2_spsr (s : State) (i : Fin 32) (h : i.val = 30) : readSet2 s i = s.spsr := by
  simp [readSet2, h]

theorem readSet2_pr31 (s : State) (i : Fin 32) (h : i.val = 31) : readSet2 s i = s.pr31 := by
  simp [readSet2, h]

/-- With RSRD = 1 only SET 2 is read. -/
theorem readReg_set2 (s : State) (i : Fin 32) (h : s.psr.rsrd = true) : readReg s i = readSet2 s i :=
  if_pos h

/-! ### Writing SET 2, one equation per kind of index (R28, R32, R40) -/

theorem writeSet2_of_lt (s : State) (i : Fin 32) (v : Word) (h : i.val < 29) :
    writeSet2 s i v = { s with pr := s.pr.set i.val v } :=
  dif_pos h

theorem writeSet2_psr (s : State) (i : Fin 32) (v : Word) (h : i.val = 29) : writeSet2 s i v = s := by
  simp [writeSet2, h]

theorem writeSet2_spsr (s : State) (i : Fin 32) (v : Word) (h : i.val = 30) :
    writeSet2 s i v = { s with spsr := v } := by
  simp [writeSet2, h]

theorem writeSet2_pr31 (s : State) (i : Fin 32) (v : Word) (h : i.val = 31) :
    writeSet2 s i v = { s with pr31 := v } := by
  simp [writeSet2, h]

/-- With RSWR = 1 only SET 2 is written. -/
theorem writeReg_set2 (s : State) (i : Fin 32) (v : Word) (h : s.psr.rswr = true) :
    writeReg s i v = writeSet2 s i v :=
  if_pos h

/-! ### What a register write leaves alone -/

/-- What SET 2 reads at an index below 29 depends on PR0 to PR28 alone. -/
theorem readSet2_congr_of_lt {s t : State} (hpr : t.pr = s.pr) (j : Fin 32) (hj : j.val < 29) :
    readSet2 t j = readSet2 s j := by
  rw [readSet2_of_lt t j hj, readSet2_of_lt s j hj]
  simp only [hpr]

/-- A write to SET 2 leaves every other index of SET 2 alone. -/
theorem readSet2_writeSet2_ne (s : State) (i j : Fin 32) (v : Word) (hne : j ≠ i) :
    readSet2 (writeSet2 s i v) j = readSet2 s j := by
  have hval : i.val ≠ j.val := fun e => hne (Fin.ext e.symm)
  rcases writeSet2_cases s i v with ⟨_, hw⟩ | ⟨_, hw⟩ | ⟨hi, hw⟩ | ⟨hi, hw⟩ <;> rw [hw]
  · simp [readSet2, Vector.getElem_set_ne, hval]
  · simp [readSet2, show j.val ≠ 30 by omega]
  · have hj : j.val < 29 ∨ j.val = 29 ∨ j.val = 30 := by omega
    rcases hj with hj | hj | hj <;> simp [readSet2, hj]

/-- A register write leaves every other index of both sets alone. -/
theorem writeReg_ne (s : State) (i j : Fin 32) (v : Word) (hne : j ≠ i) :
    (writeReg s i v).r[j] = s.r[j] ∧ readSet2 (writeReg s i v) j = readSet2 s j := by
  cases hw : s.psr.rswr with
  | false =>
    have hval : i.val ≠ j.val := fun e => hne (Fin.ext e.symm)
    rw [writeReg_set1 s i v hw]
    exact ⟨Vector.getElem_set_ne i.isLt j.isLt hval, rfl⟩
  | true =>
    constructor
    · rw [writeReg_r_of_rswr s i v hw]
    · rw [writeReg_set2 s i v hw, readSet2_writeSet2_ne s i j v hne]

/-! ### Register fields in the two word lengths (R42) -/

@[simp] theorem ridx_32 (f : BitVec 5) : ridx true f = some f.toFin := rfl

theorem ridx_16_of_lt (f : BitVec 5) (h : f.toNat < 8) : ridx false f = some ⟨f.toNat + 24, by omega⟩ := by
  simp [ridx, h]

theorem ridx_16_of_le (f : BitVec 5) (h : 8 ≤ f.toNat) : ridx false f = none := by
  simp [ridx, Nat.not_lt.2 h]

/-- A 16 bit field names one of the last eight registers. -/
theorem le_of_ridx_16 (f : BitVec 5) (i : Fin 32) (h : ridx false f = some i) : 24 ≤ i.val := by
  by_cases hf : f.toNat < 8
  · rw [ridx_16_of_lt f hf] at h
    cases h
    exact Nat.le_add_left ..
  · rw [ridx_16_of_le f (Nat.not_lt.1 hf)] at h
    cases h

/-! ### What an instruction does to the general registers -/

/-- An instruction leaves R0 to R31 and PR0 to PR28 alone, unless it is a load that writes the register its field names. -/
theorem exec_generalRegs (i : Instr) (s t : State) (h : exec i s = .next t) :
    (t.r = s.r ∧ t.pr = s.pr) ∨
      ∃ d op k ea, i = .ld d op ∧ ridx s.psr.il d = some k ∧
        t = (writeReg (dataReadState s ea) k (dataReadValue s ea)).advance := by
  cases i with
  | ld d op =>
    obtain ⟨k, ea, hk, _, ⟨_, rfl⟩ | ⟨_, rfl⟩⟩ := execLd_next _ _ _ _ h
    · exact .inl ⟨rfl, rfl⟩
    · exact .inr ⟨d, op, k, ea, rfl, hk, rfl⟩
  | st f op =>
    obtain ⟨_, _, _, _, ⟨_, rfl⟩ | ⟨_, u, hu, rfl⟩⟩ := execSt_next _ _ _ _ h
    · exact .inl ⟨rfl, rfl⟩
    · obtain ⟨hr, hpr, _⟩ := dataWrite_frame _ _ _ _ hu
      exact .inl ⟨hr, hpr⟩
  | scall =>
    obtain ⟨_, rfl⟩ := execScall_next _ _ h
    exact .inl ⟨rfl, rfl⟩
  | retu =>
    obtain ⟨_, rfl⟩ := execRetu_next _ _ h
    exact .inl ⟨rfl, rfl⟩
  | chrs rd wr =>
    rcases execChrs_next _ _ _ _ h with ⟨_, rfl⟩ | ⟨_, rfl⟩ <;> exact .inl ⟨rfl, rfl⟩
  | cop n w =>
    obtain ⟨_, rfl⟩ := execCop_next _ _ _ _ h
    exact .inl ⟨rfl, rfl⟩

/-- In 16 bit mode no instruction changes a register of index 0 to 23 of either set (R42). -/
theorem exec_16_keeps_lowRegs (i : Instr) (s t : State) (hil : s.psr.il = false) (h : exec i s = .next t)
    (j : Fin 32) (hj : j.val < 24) : t.r[j] = s.r[j] ∧ readSet2 t j = readSet2 s j := by
  have hj29 : j.val < 29 := by omega
  rcases exec_generalRegs i s t h with ⟨hr, hpr⟩ | ⟨d, _, k, ea, _, hk, rfl⟩
  · exact ⟨by rw [hr], readSet2_congr_of_lt hpr j hj29⟩
  · have hk24 : 24 ≤ k.val := le_of_ridx_16 d k (hil ▸ hk)
    have hne : j ≠ k := fun e => by omega
    obtain ⟨hr, hset2⟩ := writeReg_ne (dataReadState s ea) k j (dataReadValue s ea) hne
    constructor
    · rw [State.advance_r, hr, dataReadState_r]
    · rw [readSet2_congr_of_lt (State.advance_pr _) j hj29, hset2,
        readSet2_congr_of_lt (dataReadState_pr s ea) j hj29]

/-- Settles O3: the mapping by its equations, the rest because only `ld` writes a general register, the one its field names. -/
theorem registerFieldNamesIndex : Obligations.RegisterFieldNamesIndex := by
  refine ⟨fun f => ⟨rfl, fun h => ?_, ridx_16_of_le f⟩, fun s f i hi => ?_, exec_16_keeps_lowRegs⟩
  · rw [ridx_16_of_lt f (by omega), Option.map_some]
  · rw [readField, hi, Option.map_some]

/-! ### The set selectors (R27, R28) -/

/-- Settles O9: a source index reads the set RSRD selects, SET 2 index by index. -/
theorem sourceSelector : Obligations.SourceSelector := by
  refine fun s i => ⟨readReg_set1 s i, fun hrd => ?_⟩
  rw [readReg_set2 s i hrd]
  exact ⟨readSet2_of_lt s i, readSet2_psr s i, readSet2_spsr s i, readSet2_pr31 s i⟩

/-- Settles O10: a target index writes the set RSWR selects, SET 2 index by index. -/
theorem targetSelector : Obligations.TargetSelector := by
  refine fun s i v => ⟨writeReg_set1 s i v, fun hwr => ?_⟩
  rw [writeReg_set2 s i v hwr]
  exact ⟨writeSet2_of_lt s i v, writeSet2_psr s i v, writeSet2_spsr s i v, writeSet2_pr31 s i v⟩

/-! ### PSR read as a register (R30, R31) -/

/-- Bits 7:5 of PSR read as zeros. -/
theorem Psr.word_le (p : Psr) : p.word ≤ 0x0000001F#32 := by
  obtain ⟨ie, il, rswr, rsrd, um⟩ := p
  revert ie il rswr rsrd um
  decide

/-- The layout of the five flags in bits 4 to 0. -/
theorem Psr.word_getLsbD (p : Psr) :
    p.word.getLsbD 4 = p.ie ∧ p.word.getLsbD 3 = p.il ∧ p.word.getLsbD 2 = p.rswr ∧
      p.word.getLsbD 1 = p.rsrd ∧ p.word.getLsbD 0 = p.um := by
  obtain ⟨ie, il, rswr, rsrd, um⟩ := p
  revert ie il rswr rsrd um
  decide

/-- Settles O12: index 29 of SET 2 is the word of PSR. -/
theorem psrReadsAsFiveBits : Obligations.PsrReadsAsFiveBits := by
  intro s hrd
  rw [readReg_set2 s 29 hrd, readSet2_psr s 29 rfl]
  exact ⟨s.psr.word_le, s.psr.word_getLsbD⟩

/-! ### Reset (R83, R84) -/

theorem State.launch_psr_bits (p : Params) (pc0 : Word) (m : List (Nat × Word)) (im : List (Nat × CodeWord)) :
    (State.launch p pc0 m im).psr.bits = 0x0E#8 := by
  show Psr.bits { ie := false, il := true, rswr := true, rsrd := true, um := false } = 0x0E#8
  decide

/-- Settles O16: at reset both sets and the condition registers are replicated zeros, and PSR, which the source selector then
names at index 29, is 0x0E. -/
theorem registerResetValues : Obligations.RegisterResetValues := by
  intro p pc0 m im s
  have hbits : s.psr.bits = 0x0E#8 := State.launch_psr_bits p pc0 m im
  have hread : readReg s 29 = 0x0000000E#32 := by
    rw [readReg_set2 s 29 rfl, readSet2_psr s 29 rfl, Psr.word, hbits]
    decide
  refine ⟨fun i => ?_, fun i => ?_, rfl, fun k => ?_, hbits, hread, rfl, rfl, rfl, rfl, rfl⟩
  · exact Vector.getElem_replicate i.isLt
  · exact Vector.getElem_replicate i.isLt
  · exact Vector.getElem_replicate k.isLt

end Sys2Proof.Machine
end

section
/-! PROOFS. The memory family: the CCB window as a range of addresses, and the two protection predicates as ranges of plain
numbers. -/

namespace Sys2Proof.Machine

/-! ### The CCB window (R103) -/

/-- An aligned word is a multiple of 256. -/
theorem aligned_iff_mod (w : Word) : w.extractLsb' 0 8 = 0#8 ↔ w.toNat % 256 = 0 := by
  rw [← BitVec.toNat_inj, BitVec.extractLsb'_toNat]
  simp

/-- The window test compares block numbers, with 256 addresses to a block. -/
theorem inCcbWindow_iff_div (c : Ccb) (a : Word) :
    inCcbWindow c a = true ↔ a.toNat / 256 = c.ccbBase.toNat / 256 := by
  have block_lt (w : Word) : w.toNat / 256 < 2 ^ 24 := by omega
  rw [inCcbWindow, decide_eq_true_iff, ← BitVec.toNat_inj, BitVec.extractLsb'_toNat, BitVec.extractLsb'_toNat,
    Nat.shiftRight_eq_div_pow, Nat.shiftRight_eq_div_pow, Nat.mod_eq_of_lt (block_lt a),
    Nat.mod_eq_of_lt (block_lt c.ccbBase)]

/-- With CCB_BASE bits 7:0 zero the window starts at CCB_BASE itself. -/
theorem inCcbWindow_iff_range (c : Ccb) (a : Word) (h : c.ccbBase.extractLsb' 0 8 = 0#8) :
    inCcbWindow c a = true ↔ c.ccbBase.toNat ≤ a.toNat ∧ a.toNat ≤ c.ccbBase.toNat + 0xFF := by
  have hmod := (aligned_iff_mod c.ccbBase).1 h
  rw [inCcbWindow_iff_div]
  omega

/-- Settles O19: the window holds one block of 256 addresses, and CCB_BASE is 0x00010000 after reset. -/
theorem ccbWindowIs256Addresses : Obligations.CcbWindowIs256Addresses :=
  ⟨inCcbWindow_iff_range, fun p a =>
    inCcbWindow_iff_range (Ccb.launch p) a (by decide : (0x00010000#32).extractLsb' 0 8 = 0#8)⟩

/-! ### Memory protection (R110, R111, R113) -/

theorem insideBounds_iff (lo hi a : Word) :
    insideBounds lo hi a = true ↔ lo.toNat ≤ a.toNat ∧ a.toNat ≤ hi.toNat := by
  simp only [insideBounds, Bool.and_eq_true, decide_eq_true_iff, BitVec.le_def]

/-- A protected area allows exactly what lies outside its bounds. -/
theorem areaAllowed_protected_iff (lo hi a : Word) :
    areaAllowed true lo hi a = true ↔ ¬ (lo.toNat ≤ a.toNat ∧ a.toNat ≤ hi.toNat) := by
  rw [← insideBounds_iff, areaAllowed, if_pos rfl, Bool.not_eq_true', Bool.not_eq_true]

/-- An area that is not protected allows exactly what lies inside its bounds. -/
theorem areaAllowed_unprotected_iff (lo hi a : Word) :
    areaAllowed false lo hi a = true ↔ lo.toNat ≤ a.toNat ∧ a.toNat ≤ hi.toNat :=
  insideBounds_iff lo hi a

/-- The reset values of either pair of bounds protect the whole address space (R66 to R69). -/
theorem areaAllowed_resetBounds (a : Word) : areaAllowed true 0#32 0xFFFFFFFF#32 a = false := by
  have hmax : a.toNat ≤ 0xFFFFFFFF := Nat.le_of_lt_succ a.isLt
  rw [← Bool.not_eq_true, areaAllowed_protected_iff, not_not]
  exact ⟨Nat.zero_le _, hmax⟩

/-- Reset protects both areas (R70). -/
theorem Ccb.launch_memPconf (p : Params) :
    (Ccb.launch p).memPconf.getLsbD 0 = true ∧ (Ccb.launch p).memPconf.getLsbD 1 = true := by
  show (0b11#2).getLsbD 0 = true ∧ (0b11#2).getLsbD 1 = true
  decide

/-- Settles O22: the rule both areas share, read with MEM_PCONF[1] and the DMEM bounds. -/
theorem dataProtectionRule : Obligations.DataProtectionRule := by
  refine ⟨fun c a => ⟨fun h => ?_, fun h => ?_⟩, fun s a h => ?_, fun s a h => ?_, fun p a => ?_⟩
  · rw [dataAllowed, h, areaAllowed_protected_iff]
  · rw [dataAllowed, h, areaAllowed_unprotected_iff]
  · rw [dataForbidden, h, Bool.false_and]
  · rw [dataForbidden, h, Bool.true_and]
  · rw [dataAllowed, (Ccb.launch_memPconf p).2]
    exact areaAllowed_resetBounds a

/-- Settles O23: the rule both areas share, read with MEM_PCONF[0] and the IMEM bounds. -/
theorem instrProtectionRule : Obligations.InstrProtectionRule := by
  refine ⟨fun c a => ⟨fun h => ?_, fun h => ?_⟩, fun s h => ?_, fun s h => ?_, fun p a => ?_⟩
  · rw [instrAllowed, h, areaAllowed_protected_iff]
  · rw [instrAllowed, h, areaAllowed_unprotected_iff]
  · rw [fetchForbidden, h, Bool.false_and]
  · rw [fetchForbidden, h, Bool.true_and]
  · rw [instrAllowed, (Ccb.launch_memPconf p).1]
    exact areaAllowed_resetBounds a

end Sys2Proof.Machine
end

section
/-! PROOFS. The exception family: the priority field of each interrupt source, and what PSR.IE = 0 means for the choice of a
source and for the step. -/

namespace Sys2Proof.Machine

/-! ### Interrupt priorities (R233) -/

/-- Field `k` of a register of 4 bit fields is the base 16 digit `k` of its number. -/
theorem toNat_extractLsb'_nibble {n : Nat} (x : BitVec n) (k : Nat) :
    (x.extractLsb' (4 * k) 4).toNat = x.toNat / 16 ^ k % 16 := by
  rw [BitVec.extractLsb'_toNat, Nat.shiftRight_eq_div_pow, Nat.pow_mul]

theorem interruptPriority_cop (c : Ccb) (src : Fin 12) (h : src.val < 4) :
    interruptPriority c src = c.copIntPri.extractLsb' (4 * src.val) 4 :=
  if_pos h

theorem interruptPriority_ext (c : Ccb) (src : Fin 12) (h : ¬ src.val < 4) :
    interruptPriority c src = c.extIntPri.extractLsb' (4 * (src.val - 4)) 4 :=
  if_neg h

/-- The 16 bits of COP_INT_PRI keep their number when read as a register of 32. -/
theorem Ccb.get_copIntPri_toNat (c : Ccb) : (c.get .copIntPri).toNat = c.copIntPri.toNat :=
  BitVec.toNat_setWidth_of_le (by decide)

/-- Both priority registers are zero after reset (R86), so every field is. -/
theorem interruptPriority_launch (p : Params) (src : Fin 12) : interruptPriority (Ccb.launch p) src = 0#4 := by
  by_cases h : src.val < 4
  · rw [interruptPriority_cop _ src h]
    exact BitVec.extractLsb'_zero
  · rw [interruptPriority_ext _ src h]
    exact BitVec.extractLsb'_zero

/-- Settles O42: each source's field is a base 16 digit of its register. -/
theorem priorityFields : Obligations.PriorityFields := by
  refine ⟨fun c src => ⟨fun hcop => ?_, fun hext => ?_⟩, interruptPriority_launch⟩
  · rw [interruptPriority_cop c src (Nat.lt_succ_of_le hcop), toNat_extractLsb'_nibble, Ccb.get_copIntPri_toNat]
  · rw [interruptPriority_ext c src (Nat.not_lt.2 hext), toNat_extractLsb'_nibble]
    rfl

/-! ### Interrupts disabled (R222) -/

/-- With IE = 0 no source is a candidate, whatever its mask bit and its request line. -/
theorem candidate_of_disabled (s : State) (h : s.psr.ie = false) (src : Fin 12) : candidate s src = false := by
  rw [candidate, h, Bool.false_and, Bool.false_and]

/-- Without a candidate there is none of the best priority. -/
theorem bestCandidates_of_no_candidate (s : State) (h : ∀ src, candidate s src = false) : bestCandidates s = [] := by
  simp [bestCandidates, h]

/-- Without a candidate of the best priority no source is taken, whatever the free choices are. -/
theorem interruptChoice_of_no_best (s : State) (h : bestCandidates s = []) : interruptChoice s = none := by
  rw [interruptChoice, h]

theorem interruptChoice_of_disabled (s : State) (h : s.psr.ie = false) : interruptChoice s = none :=
  interruptChoice_of_no_best s (bestCandidates_of_no_candidate s (candidate_of_disabled s h))

/-- A step that takes no interrupt runs an instruction. -/
theorem step_of_no_interrupt (s : State) (hentry : s.intEntry = none) (hchoice : interruptChoice (observe s) = none) :
    step s = runInstr (observe s) := by
  simp only [step, hentry, hchoice]

/-- Settles O39: the outside agents leave PSR alone, so the state that the step looks at has IE = 0 too. -/
theorem disabledInterruptsAreNotTaken : Obligations.DisabledInterruptsAreNotTaken := by
  refine ⟨fun s hie => ⟨candidate_of_disabled s hie, interruptChoice_of_disabled s hie, fun hentry => ?_⟩, rfl⟩
  have hobs : (observe s).psr.ie = false := by rw [observe_psr, hie]
  exact step_of_no_interrupt s hentry (interruptChoice_of_disabled (observe s) hobs)

end Sys2Proof.Machine
end

section
/-! PROOFS. The reset and hazards family: the access time of each class as a number read from WAIT_STATES. -/

namespace Sys2Proof.Machine

/-! ### Access times (R284) -/

/-- The top field of a 12 bit register needs no reduction: it is all that lies above bit 7. -/
theorem toNat_extractLsb'_topNibble (x : BitVec 12) : (x.extractLsb' 8 4).toNat = x.toNat / 256 := by
  have hdigit : (x.extractLsb' 8 4).toNat = x.toNat / 16 ^ 2 % 16 := toNat_extractLsb'_nibble x 2
  omega

theorem accessCycles_coprocessor (c : Ccb) : accessCycles c .coprocessor = 1 + c.waitStates.toNat / 256 := by
  rw [accessCycles, toNat_extractLsb'_topNibble]

theorem accessCycles_data (c : Ccb) : accessCycles c .data = 1 + c.waitStates.toNat / 16 % 16 :=
  congrArg (1 + ·) (toNat_extractLsb'_nibble c.waitStates 1)

theorem accessCycles_instruction (c : Ccb) : accessCycles c .instruction = 1 + c.waitStates.toNat % 16 := by
  have hdigit : (c.waitStates.extractLsb' 0 4).toNat = c.waitStates.toNat / 16 ^ 0 % 16 :=
    toNat_extractLsb'_nibble c.waitStates 0
  rw [accessCycles, hdigit, Nat.pow_zero, Nat.div_one]

/-- Every field of the reset value 0xFFF of WAIT_STATES (R86) is fifteen. -/
theorem accessCycles_launch (p : Params) (k : AccessClass) : accessCycles (Ccb.launch p) k = 16 := by
  have hreset : (Ccb.launch p).waitStates.toNat = 0xFFF := rfl
  cases k with
  | coprocessor => rw [accessCycles_coprocessor, hreset]
  | data => rw [accessCycles_data, hreset]
  | instruction => rw [accessCycles_instruction, hreset]

/-- Settles O59: each class's wait cycles are one base 16 digit of WAIT_STATES. -/
theorem accessCycles_of_waitStates : Obligations.AccessCycles :=
  ⟨fun c => ⟨accessCycles_coprocessor c, accessCycles_data c, accessCycles_instruction c⟩, accessCycles_launch⟩

end Sys2Proof.Machine
end

section
/-! PROOFS. What an instruction and a step do to one part of the state at a time (SPEC 10_state.md sections 1, 2, 5 and 7,
20_memory.md section 2, 60_exceptions.md section 6): the invariant, the configuration, PSR, the condition registers and the
EXCEPTION registers. -/

namespace Sys2Proof.Machine

/-! ### Exception entry, seen from before the outside agents moved -/

/-- Exception entry after the observation records what the step began with. -/
theorem entersException_observe (s : State) (c : Cause) :
    EntersException s (takeException c (observe s)) c :=
  ⟨rfl, rfl, rfl, rfl, rfl⟩

/-- Exception entry by the fetched instruction records what the step began with: the fetch takes a free value at most. -/
theorem entersException_fetch (s : State) (c : Cause) :
    EntersException s (takeException c (fetchState (observe s))) c := by
  rw [fetchState_eq]
  exact entersException_observe s c

/-! ### What one instruction does to one part of the state -/

/-- Data memory changes by an allowed store alone. -/
theorem exec_mem (i : Instr) (s t : State) (h : exec i s = .next t) :
    (t.mem = s.mem ∧ t.storedTo = s.storedTo) ∨
      ∃ a v, dataForbidden s a = false ∧ t.mem = memWrite s.mem a v ∧ t.storedTo = addrInsert a.toNat s.storedTo := by
  rcases exec_next i s t h with ⟨_, rfl⟩ | ⟨_, _, rfl⟩ | ⟨_, _, rfl⟩ | ⟨_, _, _, _, rfl⟩ | ⟨_, _, _, rfl⟩ |
    ⟨_, _, _, _, _, _, rfl⟩ | ⟨_, _, v, ea, u, _, hf, hu, rfl⟩
  case inr.inr.inr.inr.inr.inr =>
    rcases dataWrite_cases _ _ _ _ hu with ⟨_, _, _, _, rfl⟩ | ⟨_, rfl⟩ | ⟨_, rfl⟩
    · exact .inl ⟨rfl, rfl⟩
    · exact .inl ⟨rfl, rfl⟩
    · exact .inr ⟨ea, v, hf, rfl, rfl⟩
  all_goals exact .inl (by simp)

/-- The CCB changes by exception entry, or by an allowed store to a writable register. -/
theorem exec_ccb (i : Instr) (s t : State) (h : exec i s = .next t) :
    t.ccb = s.ccb ∨ (∃ c, t = takeException c s) ∨
      ∃ a r v, dataForbidden s a = false ∧ dataTarget s.ccb a = .ccb r ∧ r.access = .rw ∧
        (r = .ccbBase → v.extractLsb' 0 8 = 0#8) ∧ t.ccb = s.ccb.set r v := by
  rcases exec_next i s t h with ⟨c, rfl⟩ | ⟨_, _, rfl⟩ | ⟨_, _, rfl⟩ | ⟨_, _, _, _, rfl⟩ | ⟨_, _, _, rfl⟩ |
    ⟨_, _, _, _, _, _, rfl⟩ | ⟨_, _, v, ea, u, _, hf, hu, rfl⟩
  case inl => exact .inr (.inl ⟨c, rfl⟩)
  case inr.inr.inr.inr.inr.inr =>
    rcases dataWrite_cases _ _ _ _ hu with ⟨r, hr, hrw, hbase, rfl⟩ | ⟨_, rfl⟩ | ⟨_, rfl⟩
    · exact .inr (.inr ⟨ea, r, v, hf, hr, hrw, hbase, rfl⟩)
    · exact .inl rfl
    · exact .inl rfl
  all_goals exact .inl (by simp)

/-- The PCB is reached at an allowed address, once per instruction at most. -/
theorem exec_pcbLog (i : Instr) (s t : State) (h : exec i s = .next t) :
    t.pcbLog = s.pcbLog ∨
      ∃ a, dataForbidden s a = false ∧
        (t.pcbLog = s.pcbLog ++ [.read a] ∨ ∃ v, t.pcbLog = s.pcbLog ++ [.write a v]) := by
  rcases exec_next i s t h with ⟨_, rfl⟩ | ⟨_, _, rfl⟩ | ⟨_, _, rfl⟩ | ⟨_, _, _, _, rfl⟩ | ⟨_, _, _, rfl⟩ |
    ⟨_, _, _, ea, _, hf, rfl⟩ | ⟨_, _, v, ea, u, _, hf, hu, rfl⟩
  case inr.inr.inr.inr.inr.inl =>
    rw [State.advance_pcbLog, writeReg_pcbLog]
    unfold dataReadState
    split
    · exact .inl rfl
    · exact .inl rfl
    · exact .inr ⟨ea, hf, .inl rfl⟩
    · exact .inl rfl
  case inr.inr.inr.inr.inr.inr =>
    rcases dataWrite_cases _ _ _ _ hu with ⟨_, _, _, _, rfl⟩ | ⟨_, rfl⟩ | ⟨_, rfl⟩
    · exact .inl rfl
    · exact .inr ⟨ea, hf, .inr ⟨v, rfl⟩⟩
    · exact .inl rfl
  all_goals exact .inl rfl

/-- The events that change PSR inside an instruction (R38), with what each does to the mode (R247). -/
theorem exec_psr (i : Instr) (s t : State) (h : exec i s = .next t) :
    t.psr = s.psr ∨ (∃ c, t = takeException c s) ∨ (i = .scall ∧ t.psr.um = false) ∨ (i = .retu ∧ t.psr.um = true) ∨
      ∃ rd wr, i = .chrs rd wr ∧ t.psr = { s.psr with rsrd := rd, rswr := wr } ∧ s.psr.um = false := by
  rcases exec_next i s t h with ⟨c, rfl⟩ | ⟨hi, _, rfl⟩ | ⟨hi, _, rfl⟩ | ⟨rd, wr, hi, hum, rfl⟩ | ⟨_, _, _, rfl⟩ |
    ⟨_, _, _, _, _, _, rfl⟩ | ⟨_, _, _, _, u, _, _, hu, rfl⟩
  · exact .inr (.inl ⟨c, rfl⟩)
  · exact .inr (.inr (.inl ⟨hi, rfl⟩))
  · exact .inr (.inr (.inr (.inl ⟨hi, rfl⟩)))
  · exact .inr (.inr (.inr (.inr ⟨rd, wr, hi, rfl, hum⟩)))
  · exact .inl rfl
  · exact .inl (by simp)
  · obtain ⟨_, _, _, hpsr, _⟩ := dataWrite_frame _ _ _ _ hu
    exact .inl hpsr

/-- No instruction writes a condition register (R160, R161, R194; log 17), instruction memory, the parameters or the set of attached
coprocessors. -/
theorem exec_cr_config (i : Instr) (s t : State) (h : exec i s = .next t) :
    t.cr = s.cr ∧ t.cfg = s.cfg ∧ t.imem = s.imem ∧ t.cops = s.cops := by
  rcases exec_next i s t h with ⟨_, rfl⟩ | ⟨_, _, rfl⟩ | ⟨_, _, rfl⟩ | ⟨_, _, _, _, rfl⟩ | ⟨_, _, _, rfl⟩ |
    ⟨_, _, _, _, _, _, rfl⟩ | ⟨_, _, _, _, u, _, _, hu, rfl⟩
  case inr.inr.inr.inr.inr.inr =>
    obtain ⟨_, _, _, _, _, hcr, _, himem, hcops, hcfg, _⟩ := dataWrite_frame _ _ _ _ hu
    exact ⟨hcr, hcfg, himem, hcops⟩
  all_goals simp

/-! ### The same of one step -/

/-- The events that change PSR in a step (R38), with what each does to the mode (R247). -/
theorem step_psr (s t : State) (h : step s = .next t) :
    t.psr = s.psr ∨ (∃ src, TakesInterrupt s src ∧ t.psr.um = s.ccb.intModeUm.getLsbD src.val) ∨
      (∃ c, EntersException s t c) ∨ (Runs s .scall ∧ t.psr.um = false) ∨ (Runs s .retu ∧ t.psr.um = true) ∨
      ∃ rd wr, Runs s (.chrs rd wr) ∧ t.psr.um = s.psr.um := by
  rcases step_next s t h with ⟨src, hsrc, rfl⟩ | ⟨_, _, _, rfl⟩ | ⟨i, hi, hx⟩
  · exact .inr (.inl ⟨src, hsrc, rfl⟩)
  · exact .inr (.inr (.inl ⟨_, entersException_observe s _⟩))
  · rcases exec_psr i _ t hx with hpsr | ⟨c, rfl⟩ | ⟨rfl, hum⟩ | ⟨rfl, hum⟩ | ⟨rd, wr, rfl, hpsr, _⟩
    · exact .inl (by simpa using hpsr)
    · exact .inr (.inr (.inl ⟨c, entersException_fetch s c⟩))
    · exact .inr (.inr (.inr (.inl ⟨hi, hum⟩)))
    · exact .inr (.inr (.inr (.inr (.inl ⟨hi, hum⟩))))
    · exact .inr (.inr (.inr (.inr (.inr ⟨rd, wr, hi, by simp [hpsr]⟩))))

theorem entersException_um {s t : State} {c : Cause} (h : EntersException s t c) : t.psr.um = false := by
  obtain ⟨_, _, _, hpsr, _⟩ := h
  rw [hpsr, superPsr]

/-- Settles O47: the cases of `step_psr`, without what they do to the mode. -/
theorem psrChangesOnlyByNamedEvents : Obligations.PsrChangesOnlyByNamedEvents := by
  intro s t h
  rcases step_psr s t h with hpsr | ⟨src, hsrc, _⟩ | hexc | ⟨hrun, _⟩ | ⟨hrun, _⟩ | ⟨rd, wr, hrun, _⟩
  · exact .inl hpsr
  · exact .inr (.inl ⟨src, hsrc⟩)
  · exact .inr (.inr (.inl hexc))
  · exact .inr (.inr (.inr (.inl hrun)))
  · exact .inr (.inr (.inr (.inr (.inl hrun))))
  · exact .inr (.inr (.inr (.inr (.inr ⟨rd, wr, hrun⟩))))

/-- Settles O48: of the events that change PSR, `chrs` keeps the mode and each other one fixes the mode it leads to. -/
theorem modeTransitions : Obligations.ModeTransitions := by
  intro s t h
  rcases step_psr s t h with hpsr | ⟨src, hsrc, hto⟩ | ⟨c, hexc⟩ | ⟨hrun, hto⟩ | ⟨hrun, hto⟩ | ⟨_, _, _, hto⟩
  · exact ⟨fun hs ht => by simp [hpsr, hs] at ht, fun hs ht => by simp [hpsr, hs] at ht⟩
  · exact ⟨fun _ hum => .inr ⟨src, hsrc, hto ▸ hum⟩, fun _ hum => .inr (.inr ⟨src, hsrc, hto ▸ hum⟩)⟩
  · exact ⟨fun _ hum => by simp [entersException_um hexc] at hum, fun _ _ => .inr (.inl ⟨c, hexc⟩)⟩
  · exact ⟨fun _ hum => by simp [hto] at hum, fun _ _ => .inl hrun⟩
  · exact ⟨fun _ _ => .inl hrun, fun _ hum => by simp [hto] at hum⟩
  · exact ⟨fun hs ht => by simp [hto, hs] at ht, fun hs ht => by simp [hto, hs] at ht⟩

/-- A store to a writable register and every move of the hardware but exception entry leave the EXCEPTION registers alone. -/
theorem exec_exceptionRegs (i : Instr) (s t : State) (h : exec i s = .next t) :
    (t.ccb.exceptionCs = s.ccb.exceptionCs ∧ t.ccb.exceptionPc = s.ccb.exceptionPc ∧
        t.ccb.exceptionPsr = s.ccb.exceptionPsr) ∨
      ∃ c, t = takeException c s := by
  rcases exec_ccb i s t h with hccb | hexc | ⟨_, r, v, _, _, hrw, _, hccb⟩
  · exact .inl (by simp [hccb])
  · exact .inr hexc
  · exact .inl (hccb ▸ Ccb.set_exception s.ccb r v hrw)

/-- Settles O49: neither the observation nor interrupt entry nor an instruction that does not raise writes them. -/
theorem exceptionRegistersKeptUntilNextException : Obligations.ExceptionRegistersKeptUntilNextException := by
  intro s t h
  rcases step_next s t h with ⟨src, _, rfl⟩ | ⟨_, _, _, rfl⟩ | ⟨i, _, hx⟩
  · exact .inl ⟨rfl, rfl, rfl⟩
  · exact .inr ⟨_, entersException_observe s _⟩
  · rcases exec_exceptionRegs i _ t hx with hkept | ⟨c, rfl⟩
    · rw [fetchState_ccb] at hkept
      exact .inl hkept
    · exact .inr ⟨c, entersException_fetch s c⟩

theorem step_cr_config (s t : State) (h : step s = .next t) :
    t.cr = s.cr ∧ t.cfg = s.cfg ∧ t.imem = s.imem ∧ t.cops = s.cops := by
  rcases step_next s t h with ⟨_, _, rfl⟩ | ⟨_, _, _, rfl⟩ | ⟨i, _, hx⟩
  · exact ⟨rfl, rfl, rfl, rfl⟩
  · exact ⟨rfl, rfl, rfl, rfl⟩
  · simpa using exec_cr_config i _ t hx

/-- Settles O46: each of the three is kept by the observation, by both entries and by every instruction. -/
theorem stepKeepsConfiguration : Obligations.StepKeepsConfiguration :=
  fun s t h => (step_cr_config s t h).2

/-- Settles O50: no instruction of the model writes a flag. -/
theorem conditionRegistersSurvive : Obligations.ConditionRegistersSurvive :=
  ⟨fun i s t h => (exec_cr_config i s t h).1, fun s t h => (step_cr_config s t h).1⟩

/-! ### The invariant (R29, R52) -/

theorem inv_observe {s : State} (h : Inv s) : Inv (observe s) :=
  ⟨h.userSet1, h.ccbAligned, h.mem, h.imem, h.stored⟩

theorem inv_fetchState {s : State} (h : Inv s) : Inv (fetchState s) := by
  rw [fetchState_eq]
  exact ⟨h.userSet1, h.ccbAligned, h.mem, h.imem, h.stored⟩

/-- EXC_PSR has UM = 0, so exception entry owes nothing to R29. -/
theorem inv_takeException {s : State} (c : Cause) (h : Inv s) : Inv (takeException c s) :=
  ⟨nofun, h.ccbAligned, h.mem, h.imem, h.stored⟩

/-- Interrupt entry sets both selectors to the negation of UM (R236). -/
theorem inv_takeInterrupt {s : State} (src : Fin 12) (h : Inv s) : Inv (takeInterrupt src s) := by
  refine ⟨fun hum => ?_, h.ccbAligned, h.mem, h.imem, h.stored⟩
  have hbit : s.ccb.intModeUm.getLsbD src.val = true := hum
  simp [interruptPsr, hbit]

/-- In user mode an instruction leaves SET 1 selected, and `retu` into user mode selects it (R29). -/
theorem exec_keeps_userSet1 (i : Instr) (s t : State) (hs : s.psr.um = true → s.psr.rsrd = false ∧ s.psr.rswr = false)
    (h : exec i s = .next t) (hum : t.psr.um = true) : t.psr.rsrd = false ∧ t.psr.rswr = false := by
  rcases exec_next i s t h with ⟨_, rfl⟩ | ⟨_, _, rfl⟩ | ⟨_, _, rfl⟩ | ⟨_, _, _, hum', rfl⟩ | ⟨_, _, _, rfl⟩ |
    ⟨_, _, _, _, _, _, rfl⟩ | ⟨_, _, _, _, u, _, _, hu, rfl⟩
  · exact nomatch hum
  · exact nomatch hum
  · exact ⟨rfl, rfl⟩
  · simp [hum'] at hum
  · exact hs hum
  · simpa using hs (by simpa using hum)
  · obtain ⟨_, _, _, hpsr, _⟩ := dataWrite_frame _ _ _ _ hu
    rw [State.advance_psr, hpsr] at hum ⊢
    exact hs hum

/-- CCB_BASE stays aligned: an accepted write to it has bits 7:0 zero (R109, D19). -/
theorem exec_keeps_ccbAligned (i : Instr) (s t : State) (hs : s.ccb.ccbBase.extractLsb' 0 8 = 0#8)
    (h : exec i s = .next t) : t.ccb.ccbBase.extractLsb' 0 8 = 0#8 := by
  rcases exec_ccb i s t h with hccb | ⟨_, rfl⟩ | ⟨_, r, v, _, _, _, hbase, hccb⟩
  · rw [hccb, hs]
  · exact hs
  · rw [hccb, Ccb.set_ccbBase]
    split
    · exact hbase ‹_›
    · exact hs

/-- An instruction keeps the canonical form of data memory and of the addresses stored to. -/
theorem exec_keeps_memWf (i : Instr) (s t : State) (hmem : memWf s.mem = true) (hst : risingFrom 0 s.storedTo = true)
    (h : exec i s = .next t) : memWf t.mem = true ∧ risingFrom 0 t.storedTo = true := by
  rcases exec_mem i s t h with ⟨hm, hsto⟩ | ⟨a, v, _, hm, hsto⟩ <;> rw [hm, hsto]
  · exact ⟨hmem, hst⟩
  · exact ⟨memWf_memWrite _ a v hmem, risingFrom_addrInsert _ 0 a.toNat hst (Nat.zero_le _) a.isLt⟩

theorem exec_keeps_inv (i : Instr) {s t : State} (hs : Inv s) (h : exec i s = .next t) : Inv t := by
  obtain ⟨_, _, himem, _⟩ := exec_cr_config i s t h
  obtain ⟨hmem, hst⟩ := exec_keeps_memWf i s t hs.mem hs.stored h
  exact ⟨exec_keeps_userSet1 i s t hs.userSet1 h, exec_keeps_ccbAligned i s t hs.ccbAligned h, hmem,
    himem ▸ hs.imem, hst⟩

/-- Settles O45: the observation, the fetch, both entries and every instruction keep the invariant. -/
theorem stepKeepsInvariant : Obligations.StepKeepsInvariant := by
  intro s t hs h
  rcases step_next s t h with ⟨src, _, rfl⟩ | ⟨_, _, _, rfl⟩ | ⟨i, _, hx⟩
  · exact inv_takeInterrupt src (inv_observe hs)
  · exact inv_takeException _ (inv_observe hs)
  · exact exec_keeps_inv i (inv_fetchState (inv_observe hs)) hx

end Sys2Proof.Machine
end

section
/-! PROOFS. What a user mode step can write (SPEC 10_state.md section 1, 20_memory.md section 3, 70_reset_and_hazards.md
section 2): of SET 2, of data memory, of the PCB and of the CCB. -/

namespace Sys2Proof.Machine

/-! ### SET 2 (R26) -/

/-- With SET 1 selected an instruction of the user writes SET 2 by `scall` alone. -/
theorem exec_user_set2 (i : Instr) (s t : State) (hum : s.psr.um = true) (hwr : s.psr.rswr = false)
    (h : exec i s = .next t) :
    t.pr = s.pr ∧
      ((t.spsr = s.spsr ∧ t.pr31 = s.pr31) ∨
        (i = .scall ∧ t.spsr.extractLsb' 0 8 = s.psr.bits ∧ t.pr31 = nextPc s)) := by
  rcases exec_next i s t h with ⟨_, rfl⟩ | ⟨hi, _, rfl⟩ | ⟨_, hsuper, _⟩ | ⟨_, _, _, hsuper, _⟩ | ⟨_, _, _, rfl⟩ |
    ⟨_, _, j, ea, _, _, rfl⟩ | ⟨_, _, _, _, u, _, _, hu, rfl⟩
  · exact ⟨rfl, .inl ⟨rfl, rfl⟩⟩
  · have hlow : (s.freeWord.extractLsb' 0 24 ++ s.psr.bits).extractLsb' 0 8 = s.psr.bits :=
      BitVec.extractLsb'_append_eq_right
    exact ⟨rfl, .inr ⟨hi, hlow, rfl⟩⟩
  · simp [hum] at hsuper
  · simp [hum] at hsuper
  · exact ⟨rfl, .inl ⟨rfl, rfl⟩⟩
  · rw [writeReg_set1 _ j _ (by simpa using hwr)]
    exact ⟨dataReadState_pr s ea, .inl ⟨dataReadState_spsr s ea, dataReadState_pr31 s ea⟩⟩
  · obtain ⟨_, hpr, hpr31, _, hspsr, _⟩ := dataWrite_frame _ _ _ _ hu
    exact ⟨hpr, .inl ⟨hspsr, hpr31⟩⟩

/-- Settles O51: the invariant gives RSWR = 0, and the observation and the fetch leave PSR, the pc and SET 2 alone. -/
theorem userStepKeepsSet2 : Obligations.UserStepKeepsSet2 := by
  intro s t hs hum h
  obtain ⟨_, hwr⟩ := hs.userSet1 hum
  rcases step_next s t h with ⟨_, _, rfl⟩ | ⟨_, _, _, rfl⟩ | ⟨i, hi, hx⟩
  · exact ⟨rfl, .inl ⟨rfl, rfl⟩⟩
  · exact ⟨rfl, .inl ⟨rfl, rfl⟩⟩
  · obtain ⟨hpr, hset2⟩ := exec_user_set2 i _ t (by simpa using hum) (by simpa using hwr) hx
    refine ⟨by simpa using hpr, ?_⟩
    rcases hset2 with hkept | ⟨rfl, hspsr, hpr31⟩
    · exact .inl (by simpa using hkept)
    · exact .inr ⟨hi, by simpa using hspsr, by simpa [nextPc] using hpr31⟩

/-! ### Allowed addresses (R110, R112, R113) -/

/-- The observation and the fetch move neither the mode nor the bounds. -/
theorem dataForbidden_fetched (s : State) (a : Word) : dataForbidden (fetchState (observe s)) a = dataForbidden s a := by
  simp [dataForbidden]

theorem dataAllowed_of_not_forbidden {s : State} {a : Word} (hum : s.psr.um = true) (h : dataForbidden s a = false) :
    dataAllowed s.ccb a = true := by
  simpa [dataForbidden, hum] using h

/-- A step changes at most one cell of data memory, at an address that does not raise. -/
theorem step_mem (s t : State) (h : step s = .next t) :
    t.mem = s.mem ∨ ∃ a v, dataForbidden s a = false ∧ t.mem = memWrite s.mem a v := by
  rcases step_next s t h with ⟨_, _, rfl⟩ | ⟨_, _, _, rfl⟩ | ⟨i, _, hx⟩
  · exact .inl rfl
  · exact .inl rfl
  · rcases exec_mem i _ t hx with ⟨hm, _⟩ | ⟨a, v, hf, hm, _⟩
    · exact .inl (by simpa using hm)
    · rw [dataForbidden_fetched] at hf
      exact .inr ⟨a, v, hf, by simpa using hm⟩

/-- A step reaches the PCB once at most, at an address that does not raise. -/
theorem step_pcbLog (s t : State) (h : step s = .next t) :
    t.pcbLog = s.pcbLog ∨
      ∃ a, dataForbidden s a = false ∧
        (t.pcbLog = s.pcbLog ++ [.read a] ∨ ∃ v, t.pcbLog = s.pcbLog ++ [.write a v]) := by
  rcases step_next s t h with ⟨_, _, rfl⟩ | ⟨_, _, _, rfl⟩ | ⟨i, _, hx⟩
  · exact .inl rfl
  · exact .inl rfl
  · simpa [dataForbidden_fetched] using exec_pcbLog i _ t hx

/-- The write side and the PCB side of data protection: what a user step writes lies at allowed addresses. -/
theorem user_step_reaches_allowed (s t : State) (hum : s.psr.um = true) (h : step s = .next t) :
    (∀ a, dataAllowed s.ccb a = false → memRead t.mem a = memRead s.mem a) ∧
      (t.pcbLog = s.pcbLog ∨
        ∃ a, dataAllowed s.ccb a = true ∧
          (t.pcbLog = s.pcbLog ++ [.read a] ∨ ∃ v, t.pcbLog = s.pcbLog ++ [.write a v])) := by
  constructor
  · intro b hb
    rcases step_mem s t h with hm | ⟨a, v, hf, hm⟩ <;> rw [hm]
    have hne : b ≠ a := fun e => by simp [e, dataAllowed_of_not_forbidden hum hf] at hb
    exact memRead_memWrite_ne _ a b v hne
  · rcases step_pcbLog s t h with hp | ⟨a, hf, hp⟩
    · exact .inl hp
    · exact .inr ⟨a, dataAllowed_of_not_forbidden hum hf, hp⟩

/-! ### The CCB (R276) -/

theorem CcbReg.ne_of_access {r q : CcbReg} (hr : r.access = .rw) (hq : q.access ≠ .rw) : r ≠ q :=
  fun e => hq (e ▸ hr)

/-- Outside agents move no writable register. -/
theorem Ccb.get_observed_of_rw (c : Ccb) (n : Nat) {r : CcbReg} (hr : r.access = .rw) :
    (c.observed n).get r = c.get r :=
  c.get_observed n r (CcbReg.ne_of_access hr (by decide)) (CcbReg.ne_of_access hr (by decide))
    (CcbReg.ne_of_access hr (by decide))

/-- Exception entry writes no writable register. -/
theorem takeException_get_of_rw (c : Cause) (s : State) {r : CcbReg} (hr : r.access = .rw) :
    (takeException c s).ccb.get r = s.ccb.get r :=
  s.ccb.get_recordException _ _ _ r (CcbReg.ne_of_access hr (by decide)) (CcbReg.ne_of_access hr (by decide))
    (CcbReg.ne_of_access hr (by decide))

/-- Interrupt entry writes no writable register. -/
theorem takeInterrupt_get_of_rw (src : Fin 12) (s : State) {r : CcbReg} (hr : r.access = .rw) :
    (takeInterrupt src s).ccb.get r = s.ccb.get r :=
  s.ccb.get_freeInterruptStatus _ r (CcbReg.ne_of_access hr (by decide)) (CcbReg.ne_of_access hr (by decide))

/-- With the CCB window protected an instruction of the user changes no writable register: a store that reaches the CCB raises. -/
theorem exec_protected_ccb (i : Instr) (s t : State) (hum : s.psr.um = true)
    (hprot : ∀ a, inCcbWindow s.ccb a = true → dataAllowed s.ccb a = false) (h : exec i s = .next t)
    {r : CcbReg} (hr : r.access = .rw) : t.ccb.get r = s.ccb.get r := by
  rcases exec_ccb i s t h with hccb | ⟨c, rfl⟩ | ⟨a, q, _, hf, hq, _, _, _⟩
  · rw [hccb]
  · exact takeException_get_of_rw c s hr
  · have hallowed := dataAllowed_of_not_forbidden hum hf
    have hdenied := hprot a (inCcbWindow_of_target _ a q hq)
    simp [hallowed] at hdenied

/-- Settles O54: neither the observation nor an entry writes such a register, and a store to one raises. -/
theorem protectedCcbIsSafeFromUser : Obligations.ProtectedCcbIsSafeFromUser := by
  intro s t hum hprot h r hr
  have hobs : (observe s).ccb.get r = s.ccb.get r := s.ccb.get_observed_of_rw s.draws hr
  rcases step_next s t h with ⟨src, _, rfl⟩ | ⟨_, _, _, rfl⟩ | ⟨i, _, hx⟩
  · rw [takeInterrupt_get_of_rw src _ hr, hobs]
  · rw [takeException_get_of_rw _ _ hr, hobs]
  · rw [exec_protected_ccb i _ t (by simpa using hum) (by simpa using hprot) hx hr, fetchState_ccb, hobs]

end Sys2Proof.Machine
end

section
/-! PROOFS. The data access path (SPEC 20_memory.md section 2): what a read and a write do at each kind of target. -/

namespace Sys2Proof.Machine

/-! ### Reading and writing at a target (R104, R105) -/

section
variable {s : State} {a : Word}

theorem dataRead_ccb {r : CcbReg} (h : dataTarget s.ccb a = .ccb r) :
    dataReadState s a = s ∧ dataReadValue s a = s.ccb.get r := by
  simp [dataReadState, dataReadValue, h]

theorem dataRead_reserved (h : dataTarget s.ccb a = .reserved) :
    dataReadState s a = s.drawn ∧ dataReadValue s a = s.freeWord := by
  simp [dataReadState, dataReadValue, h]

theorem dataRead_pcb (h : dataTarget s.ccb a = .pcb) :
    dataReadState s a = { s.drawn with pcbLog := s.pcbLog ++ [.read a] } ∧ dataReadValue s a = s.freeWord := by
  simp [dataReadState, dataReadValue, h]

theorem dataRead_memory (h : dataTarget s.ccb a = .memory) :
    dataReadState s a = s ∧ dataReadValue s a = memRead s.mem a := by
  simp [dataReadState, dataReadValue, h]

/-- A read is recorded for the PCB alone. -/
theorem dataReadState_pcbLog (h : dataTarget s.ccb a ≠ .pcb) : (dataReadState s a).pcbLog = s.pcbLog := by
  cases ht : dataTarget s.ccb a with
  | ccb r => rw [(dataRead_ccb ht).1]
  | reserved => rw [(dataRead_reserved ht).1, State.drawn_pcbLog]
  | pcb => exact absurd ht h
  | memory => rw [(dataRead_memory ht).1]

variable (v : Word)

theorem dataWrite_ccb {r : CcbReg} {c : Ccb} (h : dataTarget s.ccb a = .ccb r) (hc : ccbWrite s.ccb r v = .ok c) :
    dataWrite s a v = .ok (s.setCcb c) := by
  simp [dataWrite, h, hc]

theorem dataWrite_ccb_refused {r : CcbReg} {e : Refusal} (h : dataTarget s.ccb a = .ccb r)
    (he : ccbWrite s.ccb r v = .error e) : dataWrite s a v = .error e := by
  simp [dataWrite, h, he]

theorem dataWrite_reserved (h : dataTarget s.ccb a = .reserved) : dataWrite s a v = .error .reservedCcbOffset := by
  simp [dataWrite, h]

theorem dataWrite_pcb (h : dataTarget s.ccb a = .pcb) :
    dataWrite s a v = .ok { s with pcbLog := s.pcbLog ++ [.write a v] } := by
  simp [dataWrite, h]

theorem dataWrite_memory (h : dataTarget s.ccb a = .memory) : dataWrite s a v = .ok (s.storeCell a v) := by
  simp [dataWrite, h]

/-- A write that reaches no ordinary memory leaves data memory alone. -/
theorem dataWrite_mem_outside {u : State} (h : dataTarget s.ccb a ≠ .memory) (hu : dataWrite s a v = .ok u) :
    u.mem = s.mem := by
  rcases dataWrite_cases s u a v hu with ⟨_, _, _, _, rfl⟩ | ⟨_, rfl⟩ | ⟨ht, _⟩
  · rfl
  · rfl
  · exact absurd ht h

end

/-! ### Writing a CCB register, one equation per access class (R109) -/

section
variable {r : CcbReg} (c : Ccb) (v : Word)

theorem ccbWrite_rw (hr : r.access = .rw) (hv : r = .ccbBase → v.extractLsb' 0 8 = 0#8) :
    ccbWrite c r v = .ok (c.set r v) := by
  simpa [ccbWrite, hr] using hv

theorem ccbWrite_readOnly (hr : r.access = .readOnly) : ccbWrite c r v = .error .readOnlyCcbRegister := by
  simp [ccbWrite, hr]

theorem ccbWrite_status (hr : r.access = .status) : ccbWrite c r v = .error .statusCcbRegister := by
  simp [ccbWrite, hr]

theorem ccbWrite_unaligned (hv : v.extractLsb' 0 8 ≠ 0#8) : ccbWrite c .ccbBase v = .error .ccbBaseNotAligned := by
  simp [ccbWrite, CcbReg.access, hv]

end

end Sys2Proof.Machine
end

section
/-! PROOFS. What a user mode step can read: nothing of SET 2 (SPEC 10_state.md section 1) and no data cell that is not allowed
(20_memory.md section 3). Two runs are compared: from a state, and from the state with the hidden part replaced. -/

namespace Sys2Proof.Machine

/-! ### Comparing two outcomes -/

/-- Two outcomes that stop for the same reason, or answer next states that `R` relates. -/
def OutcomeRel (R : State → State → Prop) :
    Host.Outcome State Fault Refusal → Host.Outcome State Fault Refusal → Prop
  | .next t, .next t' => R t t'
  | .fault e, .fault e' => e = e'
  | .refused r, .refused r' => r = r'
  | _, _ => False

/-- Next states that a function cannot tell apart make outcomes that it cannot tell apart. -/
theorem OutcomeRel.mapNext_eq {R : State → State → Prop} {f : State → State} (hR : ∀ t t', R t t' → f t' = f t)
    {o o' : Host.Outcome State Fault Refusal} (h : OutcomeRel R o o') : mapNext f o' = mapNext f o := by
  cases o with
  | next t =>
    cases o' with
    | next t' => exact congrArg Host.Outcome.next (hR t t' h)
    | _ => exact h.elim
  | fault e => cases e
  | refused r =>
    cases o' with
    | refused r' => exact congrArg Host.Outcome.refused (Eq.symm h)
    | _ => exact h.elim

/-- Related outcomes that are next states are related next states. -/
theorem OutcomeRel.next {R : State → State → Prop} {o o' : Host.Outcome State Fault Refusal} {t t' : State}
    (h : OutcomeRel R o o') (ht : o = .next t) (ht' : o' = .next t') : R t t' := by
  subst ht ht'
  exact h

/-! ### A part of the state that the step looks at in the executed instruction alone -/

/-- `f` replaces a part of the state that neither the outside agents nor the choice of a source nor the fetch looks at. -/
structure HiddenBeforeExec (f : State → State) : Prop where
  intEntry : ∀ s, (f s).intEntry = s.intEntry
  psr : ∀ s, (f s).psr = s.psr
  observe : ∀ s, Machine.observe (f s) = f (Machine.observe s)
  choice : ∀ s, interruptChoice (f s) = interruptChoice s
  interrupt : ∀ src s, takeInterrupt src (f s) = f (takeInterrupt src s)
  exception : ∀ c s, takeException c (f s) = f (takeException c s)
  forbidden : ∀ s, fetchForbidden (f s) = fetchForbidden s
  aligned : ∀ s, fetchAligned (f s) = fetchAligned s
  word : ∀ s, fetchWord (f s) = fetchWord s
  fetched : ∀ s, fetchState (f s) = f (fetchState s)

theorem hiddenBeforeExec_withSet2 (pr : Vector Word 29) (spsr pr31 : Word) :
    HiddenBeforeExec (fun s => withSet2 s pr spsr pr31) where
  intEntry _ := rfl
  psr _ := rfl
  observe _ := rfl
  choice _ := rfl
  interrupt _ _ := rfl
  exception _ _ := rfl
  forbidden _ := rfl
  aligned _ := rfl
  word _ := rfl
  fetched s := (apply_ite (withSet2 · pr spsr pr31) (fetchIsFree s = true) s.drawn s).symm

theorem hiddenBeforeExec_withMemory (m : List (Nat × Word)) : HiddenBeforeExec (fun s => withMemory s m) where
  intEntry _ := rfl
  psr _ := rfl
  observe _ := rfl
  choice _ := rfl
  interrupt _ _ := rfl
  exception _ _ := rfl
  forbidden _ := rfl
  aligned _ := rfl
  word _ := rfl
  fetched s := (apply_ite (withMemory · m) (fetchIsFree s = true) s.drawn s).symm

/-- Two steps that differ in a part hidden before the instruction executes have related outcomes, if both entries and the
instruction make related states. -/
theorem HiddenBeforeExec.step {f : State → State} (hf : HiddenBeforeExec f) {R : State → State → Prop} (s : State)
    (hint : ∀ src, R (takeInterrupt src (Machine.observe s)) (f (takeInterrupt src (Machine.observe s))))
    (hexc : ∀ c, R (takeException c (Machine.observe s)) (f (takeException c (Machine.observe s))))
    (hexec : ∀ i, OutcomeRel R (exec i (fetchState (Machine.observe s))) (exec i (f (fetchState (Machine.observe s))))) :
    OutcomeRel R (Machine.step s) (Machine.step (f s)) := by
  unfold Machine.step
  rw [hf.intEntry, hf.observe, hf.choice]
  cases s.intEntry with
  | some _ => exact rfl
  | none =>
    dsimp only
    cases interruptChoice (Machine.observe s) with
    | some src =>
      dsimp only
      rw [hf.interrupt]
      exact hint src
    | none =>
      dsimp only
      unfold runInstr
      rw [hf.forbidden, hf.aligned, hf.psr, hf.word, hf.exception, hf.fetched]
      split
      · exact hexc _
      · split
        · split
          · exact hexec _
          · exact rfl
        · exact rfl

/-! ### SET 2 (R26) -/

/-- Outside SET 2 the two states are the same. -/
def SameOutsideSet2 (t t' : State) : Prop := hideSet2 t' = hideSet2 t

section
variable (s : State) (pr : Vector Word 29) (spsr pr31 : Word)

theorem outcomeRel_withSet2 : OutcomeRel SameOutsideSet2 (.next s) (.next (withSet2 s pr spsr pr31)) :=
  (rfl : hideSet2 (withSet2 s pr spsr pr31) = hideSet2 s)

theorem dataForbidden_withSet2 (a : Word) : dataForbidden (withSet2 s pr spsr pr31) a = dataForbidden s a := rfl

theorem dataReadState_withSet2 (a : Word) :
    dataReadState (withSet2 s pr spsr pr31) a = withSet2 (dataReadState s a) pr spsr pr31 := by
  unfold dataReadState
  rw [withSet2_ccb]
  cases dataTarget s.ccb a <;> rfl

/-- A write to SET 1 leaves SET 2 out of account. -/
theorem writeReg_withSet2 (i : Fin 32) (v : Word) (hwr : s.psr.rswr = false) :
    writeReg (withSet2 s pr spsr pr31) i v = withSet2 (writeReg s i v) pr spsr pr31 := by
  rw [writeReg_set1 s i v hwr, writeReg_set1 _ i v (by simpa using hwr)]
  rfl

/-- With SET 1 selected a register operand leaves SET 2 out of account. -/
theorem readField_withSet2 (hrd : s.psr.rsrd = false) (f : BitVec 5) :
    readField (withSet2 s pr spsr pr31) f = readField s f := by
  have hreg : readReg (withSet2 s pr spsr pr31) = readReg s := by
    funext i
    rw [readReg_set1 s i hrd, readReg_set1 _ i (by simpa using hrd), withSet2_r]
  rw [readField, hreg, withSet2_psr, readField]

theorem readFields_withSet2 (hrd : s.psr.rsrd = false) (fs : List (BitVec 5)) :
    readFields (withSet2 s pr spsr pr31) fs = readFields s fs := by
  induction fs with
  | nil => rfl
  | cons f fs ih => simp only [readFields, readField_withSet2 s pr spsr pr31 hrd, ih]

theorem effectiveAddress_withSet2 (hrd : s.psr.rsrd = false) (op : AddrOperand) :
    effectiveAddress (withSet2 s pr spsr pr31) op = effectiveAddress s op := by
  cases op with
  | given ea => rfl
  | formed fs rest => rw [effectiveAddress, readFields_withSet2 s pr spsr pr31 hrd, effectiveAddress]

theorem dataWrite_withSet2 (a v : Word) :
    dataWrite (withSet2 s pr spsr pr31) a v = (dataWrite s a v).map (withSet2 · pr spsr pr31) := by
  unfold dataWrite
  rw [withSet2_ccb]
  cases dataTarget s.ccb a with
  | ccb r =>
    dsimp only
    cases ccbWrite s.ccb r v <;> rfl
  | _ => rfl

/-- With SET 1 selected an instruction of the user does the same outside SET 2, whatever SET 2 holds. -/
theorem exec_withSet2 (i : Instr) (hum : s.psr.um = true) (hrd : s.psr.rsrd = false) (hwr : s.psr.rswr = false) :
    OutcomeRel SameOutsideSet2 (exec i s) (exec i (withSet2 s pr spsr pr31)) := by
  cases i with
  | ld d op =>
    simp only [exec, execLd, effectiveAddress_withSet2 s pr spsr pr31 hrd, withSet2_psr]
    split
    · rename_i j ea _ _
      rw [dataForbidden_withSet2, dataReadState_withSet2, writeReg_withSet2 _ pr spsr pr31 _ _ (by simpa using hwr)]
      split
      · exact outcomeRel_withSet2 (takeException .dataProtection s) pr spsr pr31
      · exact outcomeRel_withSet2 (writeReg (dataReadState s ea) j (dataReadValue s ea)).advance pr spsr pr31
    · exact rfl
  | st f op =>
    simp only [exec, execSt, effectiveAddress_withSet2 s pr spsr pr31 hrd, readField_withSet2 s pr spsr pr31 hrd]
    split
    · rename_i v ea _ _
      rw [dataForbidden_withSet2, dataWrite_withSet2]
      split
      · exact outcomeRel_withSet2 (takeException .dataProtection s) pr spsr pr31
      · cases dataWrite s ea v with
        | ok u => exact outcomeRel_withSet2 u.advance pr spsr pr31
        | error e => exact rfl
    · exact rfl
  | scall =>
    simp only [exec, execScall, withSet2_psr, hum, if_true]
    exact rfl
  | retu =>
    simp only [exec, execRetu, withSet2_psr, hum, if_true]
    exact rfl
  | chrs rd wr =>
    simp only [exec, execChrs, withSet2_psr, hum, if_true]
    exact outcomeRel_withSet2 (takeException .privilege s) pr spsr pr31
  | cop n w =>
    cases hn : s.cops.getLsbD n.toNat <;> simp only [exec, execCop, withSet2_cops, hn, if_true]
    · exact rfl
    · exact outcomeRel_withSet2 (s.recordCop _).advance pr spsr pr31

end

/-- Settles O52: SET 2 is hidden before the instruction executes, and the instruction works on SET 1, which the invariant selects. -/
theorem userStepLearnsNothingOfSet2 : Obligations.UserStepLearnsNothingOfSet2 := by
  intro s pr spsr pr31 hs hum
  obtain ⟨hrd, hwr⟩ := hs.userSet1 hum
  have hrel : OutcomeRel SameOutsideSet2 (step s) (step (withSet2 s pr spsr pr31)) :=
    (hiddenBeforeExec_withSet2 pr spsr pr31).step s (fun _ => rfl) (fun _ => rfl) fun i =>
      exec_withSet2 _ pr spsr pr31 i (by simpa using hum) (by simpa using hrd) (by simpa using hwr)
  exact hrel.mapNext_eq fun _ _ h => h

/-! ### Data memory that is not allowed (R110, R112, R113) -/

/-- The two states are the same outside data memory, and agree on every allowed cell. -/
structure AgreeOn (allowed : Word → Bool) (t t' : State) : Prop where
  outside : hideMemory t' = hideMemory t
  cells : ∀ a, allowed a = true → memRead t'.mem a = memRead t.mem a

section
variable (s : State) (m : List (Nat × Word)) (hagree : ∀ a, dataAllowed s.ccb a = true → memRead m a = memRead s.mem a)

theorem dataForbidden_withMemory (a : Word) : dataForbidden (withMemory s m) a = dataForbidden s a := rfl

theorem readField_withMemory (f : BitVec 5) : readField (withMemory s m) f = readField s f := rfl

theorem dataReadState_withMemory (a : Word) :
    dataReadState (withMemory s m) a = withMemory (dataReadState s a) m := by
  unfold dataReadState
  rw [withMemory_ccb]
  cases dataTarget s.ccb a <;> rfl

/-- A write that reaches no ordinary memory leaves it out of account. -/
theorem dataWrite_withMemory_outside (a v : Word) (h : dataTarget s.ccb a ≠ .memory) :
    dataWrite (withMemory s m) a v = (dataWrite s a v).map (withMemory · m) := by
  unfold dataWrite
  rw [withMemory_ccb]
  cases ht : dataTarget s.ccb a with
  | ccb r =>
    dsimp only
    cases ccbWrite s.ccb r v <;> rfl
  | memory => exact absurd ht h
  | _ => rfl

include hagree

/-- Replacing cells that are not allowed in a state with the memory of `s`. -/
theorem agreeOn_withMemory (t : State) (ht : t.mem = s.mem) : AgreeOn (dataAllowed s.ccb) t (withMemory t m) :=
  ⟨rfl, fun a ha => by rw [withMemory_mem, ht, hagree a ha]⟩

/-- A load from an allowed address brings the same value. -/
theorem dataReadValue_withMemory (a : Word) (ha : dataAllowed s.ccb a = true) :
    dataReadValue (withMemory s m) a = dataReadValue s a := by
  unfold dataReadValue
  rw [withMemory_ccb]
  cases dataTarget s.ccb a with
  | memory => exact hagree a ha
  | _ => rfl

/-- A store of the same word to the same address keeps the agreement. -/
theorem storeCell_withMemory (a v : Word) (hs : memWf s.mem = true) (hm : memWf m = true) :
    AgreeOn (dataAllowed s.ccb) (s.storeCell a v).advance ((withMemory s m).storeCell a v).advance := by
  refine ⟨rfl, fun b hb => ?_⟩
  show memRead (memWrite m a v) b = memRead (memWrite s.mem a v) b
  rw [memRead_memWrite m a b v hm, memRead_memWrite s.mem a b v hs, hagree b hb]

/-- An instruction of the user does the same outside data memory, whatever the cells that are not allowed hold, and keeps the
agreement on the others. -/
theorem exec_withMemory (i : Instr) (hum : s.psr.um = true) (hs : memWf s.mem = true) (hm : memWf m = true) :
    OutcomeRel (AgreeOn (dataAllowed s.ccb)) (exec i s) (exec i (withMemory s m)) := by
  have hsame := agreeOn_withMemory s m hagree
  cases i with
  | ld d op =>
    simp only [exec, execLd, effectiveAddress_withMemory, withMemory_psr]
    split
    · rename_i j ea _ _
      rw [dataForbidden_withMemory]
      split
      · exact hsame _ rfl
      · rename_i hf
        have hallowed := dataAllowed_of_not_forbidden hum (by simpa using hf)
        rw [dataReadValue_withMemory s m hagree ea hallowed, dataReadState_withMemory, writeReg_withMemory]
        exact hsame (writeReg (dataReadState s ea) j (dataReadValue s ea)).advance (by simp)
    · exact rfl
  | st f op =>
    simp only [exec, execSt, effectiveAddress_withMemory, readField_withMemory]
    split
    · rename_i v ea _ _
      rw [dataForbidden_withMemory]
      split
      · exact hsame _ rfl
      · by_cases ht : dataTarget s.ccb ea = .memory
        · rw [dataWrite_memory v ht, dataWrite_memory v (by rwa [withMemory_ccb])]
          exact storeCell_withMemory s m hagree ea v hs hm
        · rw [dataWrite_withMemory_outside s m ea v ht]
          cases hu : dataWrite s ea v with
          | ok u => exact hsame u.advance (dataWrite_mem_outside v ht hu : u.mem = s.mem)
          | error e => exact rfl
    · exact rfl
  | scall =>
    simp only [exec, execScall, withMemory_psr, hum, if_true]
    exact ⟨rfl, hagree⟩
  | retu =>
    simp only [exec, execRetu, withMemory_psr, hum, if_true]
    exact rfl
  | chrs rd wr =>
    simp only [exec, execChrs, withMemory_psr, hum, if_true]
    exact hsame _ rfl
  | cop n w =>
    cases hn : s.cops.getLsbD n.toNat <;> simp only [exec, execCop, withMemory_cops, hn, if_true]
    · exact rfl
    · exact hsame (s.recordCop _).advance rfl

end

/-- The read side of data protection: a user step sees no cell that is not allowed. -/
theorem user_step_withMemory (s : State) (m : List (Nat × Word)) (hs : memWf s.mem = true) (hm : memWf m = true)
    (hum : s.psr.um = true) (hagree : ∀ a, dataAllowed s.ccb a = true → memRead m a = memRead s.mem a) :
    OutcomeRel (AgreeOn (dataAllowed s.ccb)) (step s) (step (withMemory s m)) := by
  have hsame := agreeOn_withMemory s m hagree
  refine (hiddenBeforeExec_withMemory m).step s (fun _ => hsame _ rfl) (fun _ => hsame _ rfl) fun i => ?_
  have hexec := exec_withMemory (fetchState (observe s)) m (by simpa using hagree) i (by simpa using hum)
    (by simpa using hs) hm
  rw [fetchState_ccb] at hexec
  exact hexec

/-- Settles O53: the write side from what a step can reach, the read side from the comparison of the two runs. -/
theorem userStepStaysInAllowedMemory : Obligations.UserStepStaysInAllowedMemory := by
  refine ⟨user_step_reaches_allowed, fun s m hs hm hum hagree => ?_⟩
  have hrel := user_step_withMemory s m hs hm hum hagree
  exact ⟨hrel.mapNext_eq fun _ _ h => h.outside, fun t t' ht ht' => (hrel.next ht ht').cells⟩

end Sys2Proof.Machine
end

section
/-! PROOFS. Decoding and the fetch (SPEC 30_encoding.md sections 1, 3 and 4, 20_memory.md sections 4 and 6): what each kind of
code word decodes to, and what a step that takes no interrupt does with it. -/

namespace Sys2Proof.Machine

/-! ### Decoding, one equation per kind of code word (R140, R147) -/

@[simp] theorem decodeCode_raw (il : Bool) (w : Word) : decodeCode il (.raw w) = .error .noEncodingInSource := rfl

theorem decodeCode_term (il : Bool) (i : Instr) (h : i.wellFormed il = true) : decodeCode il (.term il i) = .ok i := by
  simp [decodeCode, h]

theorem decodeCode_term_notWritable (il : Bool) (i : Instr) (h : i.wellFormed il = false) :
    decodeCode il (.term il i) = .error .notWritable := by
  simp [decodeCode, h]

theorem decodeCode_term_otherLength (il il' : Bool) (i : Instr) (h : il' ≠ il) :
    decodeCode il (.term il' i) = .error .otherWordLength := by
  simp [decodeCode, h]

/-- The encoder finds no bits for any instruction (R142), so it gives the term. -/
@[simp] theorem encode_eq_term (il : Bool) (i : Instr) : encode il i = .term il i := rfl

/-- A register field above 7 cannot be written in 16 bit mode (R143, R147). -/
theorem wellFormed_16_of_le (i : Instr) (h : ∃ f ∈ i.fields, 8 ≤ f.toNat) : i.wellFormed false = false := by
  obtain ⟨f, hf, hle⟩ := h
  rw [Instr.wellFormed, List.all_eq_false]
  exact ⟨f, hf, by simp [fieldWritable, hle]⟩

/-- Settles O1: bits by the decoder's equation, a term by its register field. -/
theorem bitPatternsHaveNoMeaning : Obligations.BitPatternsHaveNoMeaning :=
  ⟨decodeCode_raw, fun _ _ => rfl, fun i h => decodeCode_term_notWritable false i (wellFormed_16_of_le i h)⟩

/-- Settles O2: the encoder gives the term, and the two word lengths differ. -/
theorem decodeOfEncodedTerm : Obligations.DecodeOfEncodedTerm := by
  intro il i h
  rw [encode_eq_term]
  exact ⟨decodeCode_term il i h, decodeCode_term_otherLength (!il) il i (by simp)⟩

/-- Settles O4: in 32 bit mode both maps are the identity, in 16 bit mode they subtract and add 24. -/
theorem registerFieldRoundTrip : Obligations.RegisterFieldRoundTrip := by
  intro il i f
  cases il with
  | true => simp only [fieldOf, ridx_32, if_true, Option.some.injEq, BitVec.toFin_inj.symm, eq_comm]
  | false =>
    by_cases hf : f.toNat < 8
    · rw [ridx_16_of_lt f hf]
      simp only [fieldOf, Bool.false_eq_true, if_false, Option.some.injEq, Fin.ext_iff, Option.ite_none_right_eq_some,
        ← BitVec.toNat_inj, BitVec.toNat_ofNat]
      omega
    · rw [ridx_16_of_le f (Nat.not_lt.1 hf)]
      simp only [fieldOf, Bool.false_eq_true, if_false, Option.ite_none_right_eq_some, Option.some.injEq,
        ← BitVec.toNat_inj, BitVec.toNat_ofNat, reduceCtorEq, iff_false]
      omega

/-! ### What the fetch gives (R118, R125) -/

theorem fetchIsFree_iff (s : State) :
    fetchIsFree s = true ↔ s.pc.toNat ∈ s.storedTo ∧ s.cfg.unifiedMemory = true := by
  simp [fetchIsFree]

theorem fetchIsFree_of_not_stored (s : State) (h : s.pc.toNat ∉ s.storedTo) : fetchIsFree s = false := by
  rw [← Bool.not_eq_true, fetchIsFree_iff]
  exact fun hfree => h hfree.1

theorem fetchWord_free (s : State) (h : fetchIsFree s = true) : fetchWord s = freeCode s := if_pos h
theorem fetchState_free (s : State) (h : fetchIsFree s = true) : fetchState s = s.drawn := if_pos h

theorem fetchWord_not_free (s : State) (h : fetchIsFree s = false) : fetchWord s = codeRead s.imem s.pc := by
  simp [fetchWord, h]

theorem fetchState_not_free (s : State) (h : fetchIsFree s = false) : fetchState s = s := by
  simp [fetchState, h]

/-- Settles O8: the fetch is free exactly with unified memory and an address stored to. -/
theorem fetchAfterStore : Obligations.FetchAfterStore := by
  refine fun s => ⟨fun hunified hstored => ?_, fun hunified => ?_, fun hstored => ?_⟩
  · have hfree := (fetchIsFree_iff s).2 ⟨hstored, hunified⟩
    refine ⟨fetchWord_free s hfree, fetchState_free s hfree, ?_⟩
    rcases freeCode_cases s with ⟨i, hwf, hi⟩ | hbits
    · exact .inl ⟨i, hwf, hi, by rw [fetchWord_free s hfree, hi, decodeCode_term _ i hwf]⟩
    · exact .inr hbits
  · exact fetchWord_not_free s (by simp [fetchIsFree, hunified])
  · exact fetchWord_not_free s (fetchIsFree_of_not_stored s hstored)

/-! ### What a step does with the fetched word -/

theorem fetchForbidden_of_allowed (s : State) (h : s.psr.um = true → instrAllowed s.ccb s.pc = true) :
    fetchForbidden s = false := by
  cases hum : s.psr.um with
  | false => simp [fetchForbidden, hum]
  | true => simp [fetchForbidden, hum, h hum]

theorem fetchAligned_iff (s : State) : fetchAligned s = true ↔ s.pc % istep s.cfg s.psr.il = 0#32 := by
  rw [fetchAligned, decide_eq_true_iff]

section
variable (s : State) (hallowed : fetchForbidden s = false)
include hallowed

theorem runInstr_misaligned (h : fetchAligned s = false) : runInstr s = .refused .misalignedFetch := by
  simp [runInstr, hallowed, h]

theorem runInstr_decoded (ha : fetchAligned s = true) {i : Instr} (hd : decodeCode s.psr.il (fetchWord s) = .ok i) :
    runInstr s = exec i (fetchState s) := by
  simp [runInstr, hallowed, ha, hd]

theorem runInstr_undecodable (ha : fetchAligned s = true) {e : DecodeError}
    (hd : decodeCode s.psr.il (fetchWord s) = .error e) : runInstr s = .refused (.undecodable e) := by
  simp [runInstr, hallowed, ha, hd]

end

theorem runInstr_forbidden (s : State) (h : fetchForbidden s = true) :
    runInstr s = .next (takeException .instrProtection s) := by
  simp [runInstr, h]

theorem step_of_runs (s : State) (i : Instr) (h : Runs s i) : step s = exec i (fetchState (observe s)) := by
  obtain ⟨hentry, hchoice, hallowed, haligned, hdecode⟩ := h
  rw [step_of_no_interrupt s hentry hchoice, runInstr_decoded _ hallowed haligned hdecode]

/-- Settles O5: `Runs` collects the checks that lead to `exec`; the observation and the fetch by their own equations. -/
theorem stepRunsDecodedInstruction : Obligations.StepRunsDecodedInstruction := by
  refine ⟨step_of_runs, fun s => rfl, fun s => ?_⟩
  rw [fetchState_eq]

/-- Settles O6: interrupts disabled, no interrupt is taken, and a fetch from an address not stored to gives the placed term. -/
theorem placedTermRuns : Obligations.PlacedTermRuns := by
  intro s i hentry hie hallowed haligned hplaced hwf hstored
  have hnotFree : fetchIsFree (observe s) = false := fetchIsFree_of_not_stored (observe s) hstored
  have hdecode : decodeCode s.psr.il (fetchWord (observe s)) = .ok i := by
    rw [fetchWord_not_free _ hnotFree, observe_imem, observe_pc, hplaced, decodeCode_term _ i hwf]
  have hruns : Runs s i :=
    ⟨hentry, interruptChoice_of_disabled (observe s) hie, fetchForbidden_of_allowed (observe s) hallowed,
      (fetchAligned_iff (observe s)).2 haligned, hdecode⟩
  rw [step_of_runs s i hruns, fetchState_not_free _ hnotFree]

/-- Settles O7: the fetch is allowed, so the alignment decides first and then the decoder, kind of word by kind of word. -/
theorem fetchStops : Obligations.FetchStops := by
  intro s hentry hchoice hallowed
  have hallowed' := fetchForbidden_of_allowed (observe s) hallowed
  have hstep := step_of_no_interrupt s hentry hchoice
  refine ⟨fun hmis => ?_, fun hal => ?_⟩
  · rw [hstep, runInstr_misaligned _ hallowed' (decide_eq_false hmis)]
  have haligned : fetchAligned (observe s) = true := (fetchAligned_iff (observe s)).2 hal
  have hstop : ∀ e, decodeCode s.psr.il (fetchWord (observe s)) = .error e → step s = .refused (.undecodable e) :=
    fun e he => by rw [hstep, runInstr_undecodable _ hallowed' haligned he]
  have hplaced : fetchIsFree s = false → ∀ {w e}, codeRead s.imem s.pc = w → decodeCode s.psr.il w = .error e →
      step s = .refused (.undecodable e) := by
    intro hfree w e hw he
    have hfetched : fetchWord (observe s) = w := (fetchWord_not_free (observe s) hfree).trans hw
    exact hstop e (hfetched ▸ he)
  refine ⟨hstop, fun hfree w hw => ?_, fun hfree => ?_, fun hfree i hi => ?_, fun hfree i hi hwf => ?_⟩
  · exact hplaced hfree hw (decodeCode_raw s.psr.il w)
  · have hword : fetchWord (observe s) = freeCode (observe s) := fetchWord_free (observe s) hfree
    rcases decodeCode_freeCode (observe s) with ⟨i, hwf, hi⟩ | he
    · exact .inl ⟨i, hwf, by rw [hstep, runInstr_decoded _ hallowed' haligned (hword ▸ hi)]⟩
    · exact .inr (hstop _ (hword ▸ he))
  · exact hplaced hfree hi (decodeCode_term_otherLength s.psr.il _ i (by simp))
  · exact hplaced hfree hi (decodeCode_term_notWritable s.psr.il i hwf)

end Sys2Proof.Machine
end

section
/-! PROOFS. Register writes, the CCB and the address map (SPEC 10_state.md sections 1, 7 and 9, 20_memory.md sections 2, 3 and
5): what a write leaves alone, the offsets as numbers, the reset values, and where each data address leads. -/

namespace Sys2Proof.Machine

/-! ### Register writes (R27, R28, R32) -/

/-- The register written in SET 2 holds the value, PSR excepted. -/
theorem readSet2_writeSet2_same (s : State) (i : Fin 32) (v : Word) (h : i.val ≠ 29) :
    readSet2 (writeSet2 s i v) i = v := by
  rcases writeSet2_cases s i v with ⟨hi, hw⟩ | ⟨hi, _⟩ | ⟨hi, hw⟩ | ⟨hi, hw⟩
  · rw [hw, readSet2_of_lt _ i hi, Vector.getElem_set_self]
  · exact absurd hi h
  · rw [hw, readSet2_spsr _ i hi]
  · rw [hw, readSet2_pr31 _ i hi]

/-- What SET 2 reads depends on its registers, PSR among them. -/
theorem readSet2_congr {s t : State} (hpr : t.pr = s.pr) (hpsr : t.psr = s.psr) (hspsr : t.spsr = s.spsr)
    (hpr31 : t.pr31 = s.pr31) (j : Fin 32) : readSet2 t j = readSet2 s j := by
  simp only [readSet2, hpr, hpsr, hspsr, hpr31]

theorem writeReg_r (s : State) (i j : Fin 32) (v : Word) :
    (writeReg s i v).r[j] = if s.psr.rswr = false ∧ j = i then v else s.r[j] := by
  by_cases hj : j = i
  · subst hj
    cases hw : s.psr.rswr with
    | false => rw [writeReg_set1 s j v hw]; simp
    | true => rw [writeReg_r_of_rswr s j v hw]; simp
  · rw [(writeReg_ne s i j v hj).1, if_neg (fun h => hj h.2)]

theorem readSet2_writeReg (s : State) (i j : Fin 32) (v : Word) :
    readSet2 (writeReg s i v) j = if s.psr.rswr = true ∧ j = i ∧ i.val ≠ 29 then v else readSet2 s j := by
  by_cases hj : j = i
  · subst hj
    cases hw : s.psr.rswr with
    | false =>
      rw [writeReg_set1 s j v hw, if_neg (by simp)]
      rfl
    | true =>
      rw [writeReg_set2 s j v hw]
      by_cases h29 : j.val = 29
      · rw [writeSet2_psr s j v h29, if_neg (fun h => h.2.2 h29)]
      · rw [readSet2_writeSet2_same s j v h29, if_pos ⟨rfl, rfl, h29⟩]
  · rw [(writeReg_ne s i j v hj).2, if_neg (fun h => hj h.2.1)]

/-- Settles O11: the two sets, one equation each. -/
theorem registerWriteFrame : Obligations.RegisterWriteFrame :=
  fun s i j v => ⟨writeReg_r s i j v, readSet2_writeReg s i j v⟩

/-! ### CCB offsets and writes (R50, R51, R81) -/

theorem CcbReg.offset_lt (r : CcbReg) : r.offset < 0x27 := by
  cases r with
  | copIntVec n => simp only [CcbReg.offset]; omega
  | extIntVec n => simp only [CcbReg.offset]; omega
  | _ => decide

theorem CcbReg.ofOffset_eq_some_iff (k : BitVec 8) (r : CcbReg) : CcbReg.ofOffset k = some r ↔ r.offset = k.toNat := by
  constructor
  · exact CcbReg.offset_of_ofOffset k r
  · intro h
    rw [← CcbReg.ofOffset_offset r, h, BitVec.ofNat_toNat, BitVec.setWidth_eq]

theorem CcbReg.ofOffset_eq_none_iff (k : BitVec 8) : CcbReg.ofOffset k = none ↔ 0x27 ≤ k.toNat := by
  rw [CcbReg.ofOffset, List.getElem?_eq_none_iff]
  rfl

/-- Settles O13: offsets and registers are one to one below 27h. -/
theorem ccbOffsetMap : Obligations.CcbOffsetMap := by
  refine ⟨fun r => ⟨r.offset_lt, r.ofOffset_offset⟩, fun k hk => ?_, fun k => (CcbReg.ofOffset_eq_none_iff k).2⟩
  cases hr : CcbReg.ofOffset k with
  | none => exact absurd ((CcbReg.ofOffset_eq_none_iff k).1 hr) (Nat.not_le.2 hk)
  | some r => exact ⟨r, rfl, CcbReg.offset_of_ofOffset k r hr⟩

/-- Settles O14: an accepted write is `Ccb.set`. -/
theorem ccbWriteThenRead : Obligations.CcbWriteThenRead := by
  intro c c' r q v h
  obtain ⟨_, _, rfl⟩ := ccbWrite_ok c c' r v h
  exact ⟨Ccb.get_set_same c r v, Ccb.get_set_ne c r q v⟩

/-- Settles O43: the vectors of coprocessors 0 to 3 start at 02h, and those of external interrupts 0 to 7 at 06h, right after them (R224). -/
theorem vectorRegisterOfSource : Obligations.VectorRegisterOfSource := by
  intro c src
  by_cases h : src.val < 4
  · have hreg : CcbReg.ofOffset (BitVec.ofNat 8 (0x02 + src.val)) = some (.copIntVec ⟨src.val, h⟩) :=
      CcbReg.ofOffset_offset (.copIntVec ⟨src.val, h⟩)
    rw [hreg, Option.map_some, interruptVector, dif_pos h]
    rfl
  · have hlt : src.val - 4 < 8 := by omega
    have hreg : CcbReg.ofOffset (BitVec.ofNat 8 (0x02 + src.val)) = some (.extIntVec ⟨src.val - 4, hlt⟩) := by
      rw [← CcbReg.ofOffset_offset (.extIntVec ⟨src.val - 4, hlt⟩)]
      congr 2
      simp only [CcbReg.offset]
      omega
    rw [hreg, Option.map_some, interruptVector, dif_neg h]
    rfl

/-! ### Reset (R86, R271, R273) -/

theorem Ccb.launch_intMask (p : Params) :
    (Ccb.launch p).get .intMask = 0#32 ∨ (Ccb.launch p).get .intMask = 0xFFF#32 := by
  show (intMaskResetOf p).setWidth 32 = 0#32 ∨ (intMaskResetOf p).setWidth 32 = 0xFFF#32
  cases h : p.intMaskResetOnes <;> simp [intMaskResetOf, h]

/-- Settles O15: every register but INT_MASK resets to a constant, and the vectors are replicated zeros. -/
theorem ccbResetValues : Obligations.CcbResetValues := by
  intro p pc0 m im c
  refine ⟨rfl, rfl, fun n => ?_, fun n => ?_, rfl, rfl, Ccb.launch_intMask p, rfl, rfl, rfl, rfl, rfl, rfl, rfl, rfl, rfl,
    rfl, rfl, rfl, rfl, rfl, rfl, rfl, rfl, rfl, rfl, rfl, rfl, rfl⟩
  · exact Vector.getElem_replicate n.isLt
  · exact Vector.getElem_replicate n.isLt

/-- Settles O17: the launch state by its fields; SPSR = 0x09 has bit 4 clear and bit 3 set. -/
theorem resetSpsrAndEntry : Obligations.ResetSpsrAndEntry := by
  refine ⟨fun p pc0 m im => ⟨rfl, rfl, rfl, rfl, rfl, ?_⟩, rfl, rfl, rfl⟩
  have hbits : (0x00000009#32).getLsbD 4 = false ∧ (0x00000009#32).getLsbD 3 = true := by decide
  rw [returnToUser_psr, State.launch, hbits.1, hbits.2]

/-- A launch is in super user mode with the aligned CCB_BASE 0x00010000, and nothing has been stored. -/
theorem inv_launch (p : Params) (pc0 : Word) (m : List (Nat × Word)) (im : List (Nat × CodeWord))
    (hm : memWf m = true) (him : codeWf im = true) : Inv (State.launch p pc0 m im) where
  userSet1 := nofun
  ccbAligned := (by decide : (0x00010000#32).extractLsb' 0 8 = 0#8)
  mem := hm
  imem := him
  stored := rfl

/-- Settles O18: `State.reset` is the launch with empty memories, which are canonical. -/
theorem launchMeetsInvariant : Obligations.LaunchMeetsInvariant :=
  ⟨inv_launch Config.params 0#32 [] [] rfl rfl, inv_launch⟩

/-! ### Bounds that cross (R114) -/

/-- No address lies inside bounds that cross, so the area rule answers its own bit everywhere. -/
theorem areaAllowed_of_crossed (prot : Bool) (lo hi a : Word) (h : hi.toNat < lo.toNat) :
    areaAllowed prot lo hi a = prot := by
  have hout : insideBounds lo hi a = false := by
    rw [← Bool.not_eq_true, insideBounds_iff]
    omega
  cases prot <;> simp [areaAllowed, hout]

/-- Settles O24: the rule both areas share, with crossed bounds. -/
theorem emptyAreaWhenBoundsCross : Obligations.EmptyAreaWhenBoundsCross :=
  fun _ a => ⟨areaAllowed_of_crossed _ _ _ a, areaAllowed_of_crossed _ _ _ a⟩

/-! ### Where a data address leads (R104, R105) -/

theorem dataTarget_window (c : Ccb) (a : Word) (h : inCcbWindow c a = true) :
    dataTarget c a = match CcbReg.ofOffset (a.extractLsb' 0 8) with | some r => .ccb r | none => .reserved :=
  if_pos h

theorem dataTarget_outside (c : Ccb) (a : Word) (h : inCcbWindow c a = false) :
    dataTarget c a = if inPcbWindow c a then .pcb else .memory := by
  simp [dataTarget, h]

/-- Inside the window an address reaches neither the PCB nor memory. -/
theorem dataTarget_of_window (c : Ccb) (a : Word) (hw : inCcbWindow c a = true) :
    dataTarget c a ≠ .pcb ∧ dataTarget c a ≠ .memory := by
  rw [dataTarget_window c a hw]
  cases CcbReg.ofOffset (a.extractLsb' 0 8) <;> simp

/-- The PCB window as a range of numbers; a sum that wraps leaves it empty (R104). -/
theorem inPcbWindow_iff (c : Ccb) (a : Word) :
    inPcbWindow c a = true ↔ c.ccbBase.toNat + 0x100 ≤ a.toNat ∧ a.toNat ≤ c.ccbEnd.toNat := by
  have ha := a.isLt
  simp only [inPcbWindow, Bool.and_eq_true, decide_eq_true_iff, BitVec.le_def, BitVec.toNat_add, BitVec.toNat_ofNat]
  omega

/-- Inside the window the low byte of an address is its distance from CCB_BASE. -/
theorem lowByte_of_window (c : Ccb) (a : Word) (hal : c.ccbBase.extractLsb' 0 8 = 0#8) (h : inCcbWindow c a = true) :
    c.ccbBase.toNat + (a.extractLsb' 0 8).toNat = a.toNat := by
  have hmod := (aligned_iff_mod c.ccbBase).1 hal
  have hrange := (inCcbWindow_iff_range c a hal).1 h
  simp only [BitVec.extractLsb'_toNat, Nat.shiftRight_zero]
  omega

section
variable (c : Ccb) (a : Word) (hal : c.ccbBase.extractLsb' 0 8 = 0#8)
include hal

theorem dataTarget_ccb_iff (r : CcbReg) : dataTarget c a = .ccb r ↔ a.toNat = c.ccbBase.toNat + r.offset := by
  have hoff := r.offset_lt
  cases hw : inCcbWindow c a with
  | true =>
    have hlow := lowByte_of_window c a hal hw
    have hreg := CcbReg.ofOffset_eq_some_iff (a.extractLsb' 0 8) r
    rw [dataTarget_window c a hw, show a.toNat = c.ccbBase.toNat + r.offset ↔ r.offset = (a.extractLsb' 0 8).toNat by omega,
      ← hreg]
    cases CcbReg.ofOffset (a.extractLsb' 0 8) <;> simp
  | false =>
    have hrange := (inCcbWindow_iff_range c a hal).not.1 (by simp [hw])
    have htarget : dataTarget c a ≠ .ccb r := by
      rw [dataTarget_outside c a hw]
      split <;> nofun
    exact iff_of_false htarget (by omega)

theorem dataTarget_reserved_iff :
    dataTarget c a = .reserved ↔ c.ccbBase.toNat + 0x27 ≤ a.toNat ∧ a.toNat ≤ c.ccbBase.toNat + 0xFF := by
  cases hw : inCcbWindow c a with
  | true =>
    have hlow := lowByte_of_window c a hal hw
    have hrange := (inCcbWindow_iff_range c a hal).1 hw
    have hnone := CcbReg.ofOffset_eq_none_iff (a.extractLsb' 0 8)
    rw [dataTarget_window c a hw,
      show c.ccbBase.toNat + 0x27 ≤ a.toNat ∧ a.toNat ≤ c.ccbBase.toNat + 0xFF ↔ 0x27 ≤ (a.extractLsb' 0 8).toNat by omega,
      ← hnone]
    cases CcbReg.ofOffset (a.extractLsb' 0 8) <;> simp
  | false =>
    have hrange := (inCcbWindow_iff_range c a hal).not.1 (by simp [hw])
    have htarget : dataTarget c a ≠ .reserved := by
      rw [dataTarget_outside c a hw]
      split <;> nofun
    exact iff_of_false htarget (by omega)

theorem dataTarget_pcb_iff :
    dataTarget c a = .pcb ↔ c.ccbBase.toNat + 0x100 ≤ a.toNat ∧ a.toNat ≤ c.ccbEnd.toNat := by
  cases hw : inCcbWindow c a with
  | true =>
    have hrange := (inCcbWindow_iff_range c a hal).1 hw
    exact iff_of_false (dataTarget_of_window c a hw).1 (by omega)
  | false =>
    rw [dataTarget_outside c a hw, ← inPcbWindow_iff]
    cases inPcbWindow c a <;> simp

theorem dataTarget_memory_iff :
    dataTarget c a = .memory ↔
      a.toNat < c.ccbBase.toNat ∨ (c.ccbBase.toNat + 0x100 ≤ a.toNat ∧ c.ccbEnd.toNat < a.toNat) := by
  have hpcb := inPcbWindow_iff c a
  cases hw : inCcbWindow c a with
  | true =>
    have hrange := (inCcbWindow_iff_range c a hal).1 hw
    exact iff_of_false (dataTarget_of_window c a hw).2 (by omega)
  | false =>
    have hrange := (inCcbWindow_iff_range c a hal).not.1 (by simp [hw])
    rw [dataTarget_outside c a hw]
    cases hp : inPcbWindow c a with
    | true =>
      have hinside := hpcb.1 hp
      exact iff_of_false (by simp) (by omega)
    | false =>
      have houtside := hpcb.not.1 (by simp [hp])
      exact iff_of_true (by simp) (by omega)

end

/-- After reset CCB_END is CCB_BASE + FFh, so the PCB window is empty (R53, R272). -/
theorem dataTarget_launch_ne_pcb (p : Params) (a : Word) : dataTarget (Ccb.launch p) a ≠ .pcb := by
  rw [Ne, dataTarget_pcb_iff (Ccb.launch p) a (by decide : (0x00010000#32).extractLsb' 0 8 = 0#8)]
  show ¬ (0x00010000 + 0x100 ≤ a.toNat ∧ a.toNat ≤ 0x000100FF)
  omega

/-- Settles O20: one range of numbers for each kind of target. -/
theorem dataAddressMap : Obligations.DataAddressMap :=
  ⟨dataTarget_launch_ne_pcb, fun c a hal =>
    ⟨dataTarget_ccb_iff c a hal, dataTarget_reserved_iff c a hal, dataTarget_pcb_iff c a hal,
      dataTarget_memory_iff c a hal⟩⟩

end Sys2Proof.Machine
end

section
/-! PROOFS. `ld` and `st` (SPEC 40_load_store.md): the outcome for each kind of target, the refusals, the frames, and a load
after a store. -/

namespace Sys2Proof.Machine

/-! ### The outcome of `ld` and `st` once the operands are read (R160, R161) -/

section
variable (s : State) (d : BitVec 5) (op : AddrOperand) {i : Fin 32} {v ea : Word}

theorem execLd_allowed (hi : ridx s.psr.il d = some i) (he : effectiveAddress s op = some ea)
    (hf : dataForbidden s ea = false) :
    exec (.ld d op) s = .next (writeReg (dataReadState s ea) i (dataReadValue s ea)).advance := by
  simp [exec, execLd, hi, he, hf]

theorem execLd_forbidden (hi : ridx s.psr.il d = some i) (he : effectiveAddress s op = some ea)
    (hf : dataForbidden s ea = true) : exec (.ld d op) s = .next (takeException .dataProtection s) := by
  simp [exec, execLd, hi, he, hf]

theorem execSt_allowed (hv : readField s d = some v) (he : effectiveAddress s op = some ea)
    (hf : dataForbidden s ea = false) {u : State} (hu : dataWrite s ea v = .ok u) :
    exec (.st d op) s = .next u.advance := by
  simp [exec, execSt, hv, he, hf, hu]

theorem execSt_refused (hv : readField s d = some v) (he : effectiveAddress s op = some ea)
    (hf : dataForbidden s ea = false) {e : Refusal} (hu : dataWrite s ea v = .error e) :
    exec (.st d op) s = .refused e := by
  simp [exec, execSt, hv, he, hf, hu]

theorem execSt_forbidden (hv : readField s d = some v) (he : effectiveAddress s op = some ea)
    (hf : dataForbidden s ea = true) : exec (.st d op) s = .next (takeException .dataProtection s) := by
  simp [exec, execSt, hv, he, hf]

end

/-- A register write moves neither the pc nor the step to the next word. -/
theorem writeReg_advance (s : State) (i : Fin 32) (v : Word) :
    (writeReg s i v).advance = (writeReg s i v).setPc (nextPc s) := by
  simp [State.advance, nextPc]

/-- Settles O25: the load's own equation, with what each kind of target gives. -/
theorem ldCompletes : Obligations.LdCompletes := by
  intro s d op i ea hi he hf
  rw [execLd_allowed s d op hi he hf]
  refine ⟨fun r ht => ?_, fun ht => ?_, fun ht => ?_, fun ht => ?_⟩
  · rw [(dataRead_ccb ht).1, (dataRead_ccb ht).2, writeReg_advance]
  · rw [(dataRead_memory ht).1, (dataRead_memory ht).2, writeReg_advance]
  · rw [(dataRead_reserved ht).1, (dataRead_reserved ht).2, writeReg_advance]
    rfl
  · rw [(dataRead_pcb ht).1, (dataRead_pcb ht).2, writeReg_advance]
    rfl

/-- Settles O27: the store's own equation, with what each kind of target takes. -/
theorem stCompletes : Obligations.StCompletes := by
  intro s src op v ea hv he hf
  refine ⟨fun ht => ?_, fun r ht hrw hbase => ?_, fun ht => ?_⟩
  · exact execSt_allowed s src op hv he hf (dataWrite_memory v ht)
  · exact execSt_allowed s src op hv he hf (dataWrite_ccb v ht (ccbWrite_rw s.ccb v hrw hbase))
  · exact execSt_allowed s src op hv he hf (dataWrite_pcb v ht)

/-! ### Refusals and traps -/

/-- A 16 bit word carries no register field above 7, so an operand with one has no value (R147; log 11). -/
theorem loadStore_field_refused (s : State) (f : BitVec 5) (op : AddrOperand) (hil : s.psr.il = false)
    (h : 8 ≤ f.toNat ∨ ∃ g ∈ op.fields, 8 ≤ g.toNat) :
    exec (.ld f op) s = .refused .fieldNotIn16BitMode ∧ exec (.st f op) s = .refused .fieldNotIn16BitMode := by
  rcases h with hf | hop
  · have hidx : ridx s.psr.il f = none := by rw [hil, ridx_16_of_le f hf]
    have hread : readField s f = none := by rw [readField, hidx, Option.map_none]
    simp [exec, execLd, execSt, hidx, hread]
  · simp [exec, execLd, execSt, effectiveAddress_none s op hil hop]

/-- Settles O28: the fields first, then one refusal per kind of target that takes no value. -/
theorem loadStoreRefusals : Obligations.LoadStoreRefusals := by
  refine ⟨loadStore_field_refused, fun s src op v ea hv he hf => ?_⟩
  refine ⟨fun ht => ?_, fun r ht hr => ?_, fun r ht hr => ?_, fun ht hbase => ?_⟩ <;>
    apply execSt_refused s src op hv he hf
  · exact dataWrite_reserved v ht
  · exact dataWrite_ccb_refused v ht (ccbWrite_readOnly s.ccb v hr)
  · exact dataWrite_ccb_refused v ht (ccbWrite_status s.ccb v hr)
  · exact dataWrite_ccb_refused v ht (ccbWrite_unaligned s.ccb v hbase)

/-- Settles O30: the user is checked before the access, for a load and for a store. -/
theorem forbiddenAccessTraps : Obligations.ForbiddenAccessTraps := by
  intro s f op i ea hi he hum hdenied
  have hf : dataForbidden s ea = true := by simp [dataForbidden, hum, hdenied]
  have hv : readField s f = some (readReg s i) := by rw [readField, hi, Option.map_some]
  exact ⟨execLd_forbidden s f op hi he hf, execSt_forbidden s f op hv he hf⟩

/-! ### Frames -/

/-- Settles O26: a load is a register write on a state that differs in the free value counter and the PCB record alone. -/
theorem ldFrame : Obligations.LdFrame := by
  intro s t d op i ea hi he hf h
  rw [execLd_allowed s d op hi he hf] at h
  cases h
  refine ⟨by simp, by simp, by simp, by simp, by simp, by simp, by simp, by simp, by simp, by simp, by simp,
    fun hpcb => ?_, fun j hj => ?_, fun j hj => ?_⟩
  · rw [State.advance_pcbLog, writeReg_pcbLog, dataReadState_pcbLog hpcb]
  · have hne : ¬ (s.psr.rswr = false ∧ j = i) := by
      rintro ⟨hwr, rfl⟩
      simp [hwr] at hj
    rw [State.advance_r, writeReg_r, dataReadState_psr, if_neg hne, dataReadState_r]
  · have hne : ¬ (s.psr.rswr = true ∧ j = i ∧ i.val ≠ 29) := by
      rintro ⟨hwr, rfl, _⟩
      simp [hwr] at hj
    have hadvance : ∀ u : State, readSet2 u.advance j = readSet2 u j := fun u => rfl
    rw [hadvance, readSet2_writeReg, dataReadState_psr, if_neg hne]
    exact readSet2_congr (by simp) (by simp) (by simp) (by simp) j

/-- Settles O29: an accepted write does one of three things, and the pc advances. -/
theorem stFrame : Obligations.StFrame := by
  intro s t src op ea he hf h
  obtain ⟨v, ea', _, he', ⟨hf', _⟩ | ⟨_, u, hu, rfl⟩⟩ := execSt_next src op s t h
  · rw [he] at he'
    cases he'
    simp [hf] at hf'
  · rw [he] at he'
    cases he'
    rcases dataWrite_cases s u ea v hu with ⟨r, ht, _, _, rfl⟩ | ⟨ht, rfl⟩ | ⟨ht, rfl⟩
    · have hget : ∀ q, dataTarget s.ccb ea ≠ .ccb q → (s.ccb.set r v).get q = s.ccb.get q :=
        fun q hq => Ccb.get_set_ne s.ccb r q v (fun e => hq (e ▸ ht))
      simpa using hget
    · simp [ht]
    · have hother : ∀ b, b ≠ ea → memRead (memWrite s.mem ea v) b = memRead s.mem b :=
        fun b hb => memRead_memWrite_ne s.mem ea b v hb
      simpa [ht] using hother

/-- Settles O21: the store leaves every operand's path as it was and one cell of memory written. -/
theorem storeThenLoad : Obligations.StoreThenLoad := by
  intro s t src d op op' a b v i hwf hv hi ha hta htb hfa hfb hst hb
  rw [execSt_allowed s src op hv ha hfa (dataWrite_memory v hta)] at hst
  cases hst
  have hmemory : dataTarget (s.storeCell a v).advance.ccb b = .memory := htb
  have hread : memRead (memWrite s.mem a v) b = if b = a then v else memRead s.mem b := memRead_memWrite s.mem a b v hwf
  rw [execLd_allowed (s.storeCell a v).advance d op' hi hb hfb, (dataRead_memory hmemory).1,
    (dataRead_memory hmemory).2, writeReg_advance, ← hread]
  rfl

end Sys2Proof.Machine
end

section
/-! PROOFS. The system instructions, exception and interrupt entry, the choice of a source, and the classes without mnemonic
(SPEC 41_system.md, 42_coprocessor.md, 43_flag_and_link_classes.md, 60_exceptions.md). -/

namespace Sys2Proof.Machine

/-! ### scall, retu, chrs, cop (R170 to R182) -/

/-- Settles O31: in user mode `scall` is one record update; its SPSR is the free upper bits over the bits of PSR. -/
theorem scallCompletes : Obligations.ScallCompletes := by
  intro s hum
  have hexec : exec .scall s = .next
      { s.drawn with
        spsr := s.freeWord.extractLsb' 0 24 ++ s.psr.bits
        pr31 := nextPc s
        psr := superPsr s.cfg.scallPsr
        pc := s.ccb.systemAddr } := if_pos hum
  exact ⟨_, hexec, BitVec.extractLsb'_append_eq_right, BitVec.extractLsb'_append_eq_left, rfl, rfl, rfl, rfl, rfl⟩

theorem execRetu_super (s : State) (h : s.psr.um = false) : exec .retu s = .next (returnToUser s) := by
  simp [exec, execRetu, h]

theorem execChrs_super (s : State) (rd wr : Bool) (h : s.psr.um = false) :
    exec (.chrs rd wr) s = .next (s.setPsr { s.psr with rsrd := rd, rswr := wr }).advance := by
  simp [exec, execChrs, h]

/-- Settles O32: in super user mode `retu` is `returnToUser`. -/
theorem retuCompletes : Obligations.RetuCompletes :=
  execRetu_super

/-- Settles O33: the mode is checked before any effect. -/
theorem systemInstructionInWrongMode : Obligations.SystemInstructionInWrongMode := by
  refine fun s => ⟨fun hum => ?_, fun hum => if_pos hum, fun hum rd wr => if_pos hum⟩
  simp [exec, execScall, hum]

/-- Settles O34: in super user mode `chrs` writes the two selectors; the word length that advances the pc is kept. -/
theorem chrsCompletes : Obligations.ChrsCompletes :=
  execChrs_super

/-- Five bit field `n` of CREG_I_INDX is the base 32 digit `n` of its number (R74). -/
theorem copIndex_toNat (c : Ccb) (n : BitVec 2) : (copIndex c n).toNat = c.cregIIndx.toNat / 32 ^ n.toNat % 32 := by
  rw [copIndex, BitVec.extractLsb'_toNat, Nat.shiftRight_eq_div_pow, Nat.pow_mul]

/-- Settles O35: an attached coprocessor records the word at its index. -/
theorem copCompletes : Obligations.CopCompletes := by
  intro s n w
  refine ⟨fun hn => ?_, fun hn => ?_⟩
  · exact ⟨{ n := n, index := copIndex s.ccb n, word := w }, rfl, rfl, copIndex_toNat s.ccb n, if_pos hn⟩
  · simp [exec, execCop, hn]

/-- Settles O36: the effects of the four instructions are record updates that name what they change. -/
theorem systemFrame : Obligations.SystemFrame := by
  intro s t i hi h
  have hraise : ∀ (c : Cause) (q : CcbReg), q ≠ .exceptionCs → q ≠ .exceptionPc → q ≠ .exceptionPsr →
      (takeException c s).ccb.get q = s.ccb.get q := fun c q => s.ccb.get_recordException _ _ _ q
  rcases hi with rfl | rfl | ⟨rd, wr, rfl⟩ | ⟨n, w, rfl⟩
  · obtain ⟨_, rfl⟩ := execScall_next s t h
    simp
  · obtain ⟨_, rfl⟩ := execRetu_next s t h
    simp
  · rcases execChrs_next rd wr s t h with ⟨_, rfl⟩ | ⟨_, rfl⟩
    · simpa using hraise .privilege
    · simp
  · obtain ⟨_, rfl⟩ := execCop_next n w s t h
    simp

/-! ### Exception entry (R240) -/

/-- Settles O37: entry is one record update, and recording writes the three EXCEPTION registers alone. -/
theorem exceptionEntry : Obligations.ExceptionEntry :=
  fun _ s => ⟨rfl, rfl, rfl, rfl, rfl, rfl, s.ccb.get_recordException _ _ _, rfl⟩

/-- Settles O38: with interrupts disabled the step fetches, and the protection check comes first. -/
theorem forbiddenFetchTraps : Obligations.ForbiddenFetchTraps := by
  intro s hentry hie hum hdenied
  have hforbidden : fetchForbidden (observe s) = true := by simp [fetchForbidden, hum, hdenied]
  have hstep : step s = .next (takeException .instrProtection (observe s)) := by
    rw [step_of_no_interrupt s hentry (interruptChoice_of_disabled (observe s) hie), runInstr_forbidden _ hforbidden]
  exact ⟨_, hstep, entersException_observe s _, rfl, rfl, rfl, rfl, rfl, rfl, rfl⟩

/-! ### Interrupts (R223 to R237) -/

/-- Settles O44: entry is one record update, and it marks that no step follows. -/
theorem interruptEntry : Obligations.InterruptEntry :=
  fun _ s => ⟨rfl, rfl, rfl, rfl, rfl, s.ccb.get_freeInterruptStatus _, rfl, rfl⟩

theorem mem_interruptSources (src : Fin 12) : src ∈ interruptSources := by
  revert src
  decide

/-- The candidates on offer are those that no candidate is better than (R234). -/
theorem mem_bestCandidates_iff (s : State) (x : Fin 12) :
    x ∈ bestCandidates s ↔
      candidate s x = true ∧ ∀ y, candidate s y = true → interruptPriority s.ccb x ≤ interruptPriority s.ccb y := by
  simp [bestCandidates, mem_interruptSources, ← Bool.not_eq_true, ← imp_iff_not_or]

/-- Whatever the free choices are, a source that is taken is one of the candidates on offer. -/
theorem mem_bestCandidates_of_choice {s : State} {src : Fin 12} (h : interruptChoice s = some src) :
    src ∈ bestCandidates s := by
  unfold interruptChoice at h
  split at h
  · cases h
  · rename_i x xs hbest
    split at h
    · exact hbest ▸ List.mem_of_getElem? h
    · cases h

/-- Where there is a candidate, one with the least priority number is on offer. -/
theorem bestCandidates_ne_nil (s : State) (y : Fin 12) (hy : candidate s y = true) : bestCandidates s ≠ [] := by
  obtain ⟨x, hx, hmin⟩ := Set.exists_min_image {z | candidate s z = true} (fun z => (interruptPriority s.ccb z).toNat)
    (Set.toFinite _) ⟨y, hy⟩
  exact List.ne_nil_of_mem ((mem_bestCandidates_iff s x).2 ⟨hx, hmin⟩)

theorem candidate_of_masked (s : State) (src : Fin 12) (h : s.ccb.intMask.getLsbD src.val = false) :
    candidate s src = false := by
  rw [candidate, h, Bool.and_false, Bool.false_and]

/-- Settles O40: the mask bit is a factor of being a candidate, and only candidates are taken. -/
theorem maskedSourceIsNotTaken : Obligations.MaskedSourceIsNotTaken := by
  refine ⟨fun s src => ⟨fun hmask => ?_, fun hmask => ?_⟩, fun p => rfl⟩
  · have hno := candidate_of_masked s src hmask
    refine ⟨hno, fun hchoice => ?_⟩
    have hcand := ((mem_bestCandidates_iff s src).1 (mem_bestCandidates_of_choice hchoice)).1
    simp [hno] at hcand
  · rw [candidate, hmask, Bool.and_true, Bool.and_eq_true]

/-- Settles O41: the source taken is on offer, on offer means of the best priority, and the observation moves no priority. -/
theorem takenSourceHasBestPriority : Obligations.TakenSourceHasBestPriority := by
  refine ⟨fun s hentry => ?_, bestCandidates_ne_nil, mem_bestCandidates_iff⟩
  cases hchoice : interruptChoice (observe s) with
  | none => exact .inr (step_of_no_interrupt s hentry hchoice)
  | some src =>
    obtain ⟨hcand, hbest⟩ := (mem_bestCandidates_iff (observe s) src).1 (mem_bestCandidates_of_choice hchoice)
    refine .inl ⟨src, hcand, hbest, ?_⟩
    simp only [step, hentry, hchoice]

/-! ### Classes without mnemonic (R190 to R195) -/

/-- Reading the condition registers after a write (R45, R47). -/
theorem writeCr_getElem (s : State) (k j : Fin 8) (f : CondReg) :
    (writeCr s k f).cr[j] = if j = crIndex s.psr.il k then f else s.cr[j] := by
  simp [Vector.getElem_set, Fin.ext_iff, eq_comm]

/-- Settles O55: a compare is a write of the selected condition register, and the pc advances. -/
theorem compareWritesSelectedFlags : Obligations.CompareWritesSelectedFlags := by
  intro s m k fa fb a b ha hb
  have hexec : compareClass m k fa fb s = .next (writeCr s k (Config.flagsCmp m a b)).advance := by
    simp [compareClass, ha, hb]
  refine ⟨_, hexec, ?_, fun j hj => ?_, rfl⟩
  · exact (writeCr_getElem s k _ _).trans (if_pos rfl)
  · exact (writeCr_getElem s k j _).trans (if_neg hj)

/-- Settles O56: in both word lengths the flags go to C0, after the result is written. -/
theorem arithmeticSavesFlagsToC0 : Obligations.ArithmeticSavesFlagsToC0 := by
  intro s o d fa fb i a b hi ha hb
  let u := writeReg s i (Config.arithOp o a b)
  have hexec : arithClass o d fa fb s = .next (writeCr u 0 (Config.flagsOp o a b (Config.arithOp o a b))).advance := by
    simp [arithClass, hi, ha, hb, u]
  have hzero : crIndex u.psr.il 0 = 0 := ite_self _
  have hcr : u.cr = s.cr := writeReg_cr s i _
  refine ⟨_, hexec, ?_, fun j hj => ?_, ?_, rfl⟩
  · exact (writeCr_getElem u 0 0 _).trans (if_pos hzero.symm)
  · rw [State.advance_cr, writeCr_getElem, hzero, if_neg hj, hcr]
  · simp [nextPc, u]

/-- Settles O57: both classes are a choice on the condition of the selected register. -/
theorem conditionalClasses : Obligations.ConditionalClasses := by
  intro s cond k target body
  have hcond : conditionHolds s cond k = Config.holds cond s.cr[if s.psr.il then k else 0] := rfl
  refine ⟨?_, ?_⟩
  · rw [branchClass, hcond]
    cases Config.holds cond s.cr[if s.psr.il then k else 0] <;> rfl
  · rw [conditionalClass, hcond]
    rfl

/-- Settles O58: index 31 of SET 2 is PR31. -/
theorem linkFollowsSelectors : Obligations.LinkFollowsSelectors := by
  refine fun s link => ⟨writeReg_set1 s 31 link, fun hwr => ?_, readReg_set1 s 31, fun hrd => ?_⟩
  · rw [writeLink, writeReg_set2 s 31 link hwr, writeSet2_pr31 s 31 link rfl]
  · rw [readLink, readReg_set2 s 31 hrd, readSet2_pr31 s 31 rfl]

end Sys2Proof.Machine
end
